-- ==== Sys2Proof/Word.lean ====
section
/-! DEFINITION. The values of the block: bytes, packets and the 16-bit header notation (spec/00_scope.md R8,
spec/30_encoding.md R45, R48). -/

namespace Sys2Proof

/-- A byte: an unsigned integer 0 to 255, bits 7 down to 0 (R8). -/
abbrev Byte := BitVec 8

/-- A packet: a byte sequence, index 0 first (R34, R45). -/
abbrev Packet := List Byte

/-- The header as one 16-bit value, `hdr[15:8] = tag0`, `hdr[7:0] = tag1` (R48). Notation of the opcode table only:
nothing in the block computes it. -/
def header (tag0 tag1 : Byte) : BitVec 16 := tag0 ++ tag1

end Sys2Proof
end

