-- ==== Sys2Proof/Config.lean ====
section
/-! DEFINITION. The configuration of the block (spec/00_scope.md R4 to R7): its parameters, the constraints they must
meet, and the spec's two named configurations. Every rule is stated for an arbitrary configuration that meets R6. -/

namespace Sys2Proof

/-- The parameters, under the spec's own names (R4, R5, R6). The tag of INTERRUPT is no field: the source fixes it. -/
structure Config where
  /-- The boundary byte (R4). -/
  END : Byte
  /-- The escape byte (R4). -/
  ESC : Byte
  /-- The substitution byte that after `ESC` stands for a literal `END` (R4). -/
  ESC_END : Byte
  /-- The substitution byte that after `ESC` stands for a literal `ESC` (R4). -/
  ESC_ESC : Byte
  /-- The tag of TERMSPEC_QUERY (R5). -/
  T_TERMSPEC_QUERY : Byte
  /-- The tag of KEY_POLL (R5). -/
  T_KEY_POLL : Byte
  /-- The tag of DISPLAY_WRITE (R5). -/
  T_DISPLAY_WRITE : Byte
  /-- Capacity of `rx_buf`, in decoded bytes (R6). -/
  RX_CAP : Nat
  /-- The agreed maximum packet size, header included (R6). -/
  MAX_PACKET : Nat
  /-- Capacity of `kb_buf` (R6). -/
  KB_CAP : Nat
  /-- The identification string, the exact payload of the TERMSPEC reply (R6, R98). -/
  TERMSPEC_ID : List Byte
  deriving DecidableEq, Repr

/-- The tag of INTERRUPT, fixed by the source (R5: `T_INTERRUPT` = 0x03). -/
abbrev T_INTERRUPT : Byte := 0x03#8

/-- The byte the source names as no tag (R5: "Unknown opcode `0x09, 0x09`"). -/
abbrev UNKNOWN_TAG : Byte := 0x09#8

namespace Config

/-- The constraints of R6, in its order: (1) framing bytes pairwise distinct; (2) tags pairwise distinct, none is 0x09
(`T_INTERRUPT` = 0x03 by definition); (3), (4), (5) the sizes. A configuration that breaks one is refused (U10). -/
abbrev Ok (c : Config) : Prop :=
  [c.END, c.ESC, c.ESC_END, c.ESC_ESC].Nodup ∧
  [c.T_TERMSPEC_QUERY, c.T_KEY_POLL, c.T_DISPLAY_WRITE, T_INTERRUPT, UNKNOWN_TAG].Nodup ∧
  (2 ≤ c.MAX_PACKET ∧ c.MAX_PACKET ≤ c.RX_CAP) ∧
  (1 ≤ c.KB_CAP ∧ c.KB_CAP + 2 ≤ c.MAX_PACKET) ∧
  c.TERMSPEC_ID.length + 2 ≤ c.MAX_PACKET

/-- `CFG_DEFAULT`: every default of R4, R5, R6 (R7). None of the values but 0x03 is a fact about the original. -/
def cfgDefault : Config where
  END := 0xC0#8
  ESC := 0xDB#8
  ESC_END := 0xDC#8
  ESC_ESC := 0xDD#8
  T_TERMSPEC_QUERY := 0x05#8
  T_KEY_POLL := 0x11#8
  T_DISPLAY_WRITE := 0x02#8
  RX_CAP := 128
  MAX_PACKET := 128
  KB_CAP := 16
  TERMSPEC_ID := [0x75#8, 0x74#8, 0x65#8, 0x72#8, 0x6D#8]

/-- `CFG_TINY`: as `CFG_DEFAULT` with small capacities (R7). -/
def cfgTiny : Config :=
  { cfgDefault with RX_CAP := 6, MAX_PACKET := 6, KB_CAP := 2, TERMSPEC_ID := [0x75#8, 0x74#8] }

end Config

end Sys2Proof
end

