-- ==== Sys2Proof/Syntax.lean ====
section
/-! DEFINITION. The instructions: one constructor per row of spec/opcode_table.json, in the table's order
(spec/30_encoding.md R48), and the decoder states the FRAME_SYM rows are matched in (spec/10_state.md R17). -/

namespace Sys2Proof

/-- `rx_state` (R17): the decoder's position inside a frame. -/
inductive RxState where
  /-- `RX_NORMAL`: accumulating a frame, no unresolved `ESC`. -/
  | normal
  /-- `RX_ESC`: the previous byte was `ESC`. -/
  | esc
  /-- `RX_DISCARD`: a framing error has happened in this frame. -/
  | discard
  deriving DecidableEq, Repr

/-- Why a delivered packet is dropped (R102, R140). -/
inductive DropReason where
  | short
  | mismatch
  | unknown
  deriving DecidableEq, Repr

/-- The rows of the opcode table. A PKT_REQ row carries the packet bytes after the header (DROP: the whole packet), a
PKT_REPLY row its payload, a FRAME_SYM row the wire byte where the row does not fix it. -/
inductive Instr where
  -- PKT_REQ: a delivered packet (R51, R53)
  /-- TERMSPEC_QUERY; `extra` is ignored (R96, R98). -/
  | termspecQuery (extra : List Byte)
  /-- KEY_POLL; `extra` is ignored (R96, R99). -/
  | keyPoll (extra : List Byte)
  /-- DISPLAY_WRITE with its display bytes (R100). -/
  | displayWrite (payload : List Byte)
  /-- INTERRUPT; `extra` is ignored (R96, R101). -/
  | interrupt (extra : List Byte)
  /-- DROP: any other delivered packet, whole (R102). -/
  | drop (packet : Packet)
  -- PKT_REPLY: a packet the block sends (R52)
  /-- The TERMSPEC reply (R58, R98). -/
  | termspecReply (ident : List Byte)
  /-- The KEYS reply (R58, R99). -/
  | keysReply (keys : List Byte)
  /-- The ACK reply (R58, R100). -/
  | ackReply
  -- FRAME_SYM: one received wire byte (R78)
  /-- `END` in RX_NORMAL with nothing held (R67). -/
  | endEmptyFrame
  /-- `END` in RX_NORMAL with `rx_len` > 0 (R68). -/
  | endOfFrame
  /-- `ESC` in RX_NORMAL (R69). -/
  | esc
  /-- A byte in RX_NORMAL that is neither `END` nor `ESC` (R71). -/
  | literal (b : Byte)
  /-- `ESC_END` in RX_ESC (R72). -/
  | escEnd
  /-- `ESC_ESC` in RX_ESC (R73). -/
  | escEsc
  /-- `END` in RX_ESC (R74). -/
  | endAfterEsc
  /-- Any other byte in RX_ESC (R75). -/
  | badEscape (b : Byte)
  /-- `END` in RX_DISCARD (R76). -/
  | endResync
  /-- Any other byte in RX_DISCARD (R77). -/
  | discarded (b : Byte)
  deriving DecidableEq, Repr

end Sys2Proof
end

