-- ==== Sys2Proof/WellFormed.lean ====
section
/-! DEFINITION. Which instructions a configuration admits: the sizes of spec/30_encoding.md R56 and
spec/41_framing_encoder.md R89, and the "matches no other row" conditions of the default rows (R48). -/

namespace Sys2Proof

/-- A well-formed request packet: at least two bytes, the first two equal, and one of the four tags (R96). The rest of
the packet plays no part. -/
def isRequest (c : Config) : Packet → Bool
  | a :: b :: _ =>
    a == b && (a == c.T_TERMSPEC_QUERY || a == c.T_KEY_POLL || a == c.T_DISPLAY_WRITE || a == T_INTERRUPT)
  | _ => false

/-- An instruction is well-formed: a received packet fits `rx_buf` (R56: the bound on reception is `RX_CAP`), a sent
packet fits the agreed maximum (R89), a default row's bytes match no other row of its context (R48). -/
def Instr.wellFormed (c : Config) : Instr → Bool
  | .termspecQuery extra => extra.length + 2 ≤ c.RX_CAP
  | .keyPoll extra => extra.length + 2 ≤ c.RX_CAP
  | .displayWrite payload => payload.length + 2 ≤ c.RX_CAP
  | .interrupt extra => extra.length + 2 ≤ c.RX_CAP
  | .drop p => 1 ≤ p.length && p.length ≤ c.RX_CAP && !isRequest c p
  | .termspecReply ident => ident == c.TERMSPEC_ID && ident.length + 2 ≤ c.MAX_PACKET
  | .keysReply keys => keys.length ≤ c.KB_CAP && keys.length + 2 ≤ c.MAX_PACKET
  | .ackReply => 2 ≤ c.MAX_PACKET
  | .endEmptyFrame => true
  | .endOfFrame => true
  | .esc => true
  | .literal b => b != c.END && b != c.ESC
  | .escEnd => true
  | .escEsc => true
  | .endAfterEsc => true
  | .badEscape b => b != c.ESC_END && b != c.ESC_ESC && b != c.END
  | .endResync => true
  | .discarded b => b != c.END

end Sys2Proof
end

