-- ==== Sys2Proof/Decode.lean ====
section
/-! DEFINITION. Decoding and encoding, both layers (spec/30_encoding.md). FRAME_SYM: one wire byte in a decoder state
(R66, R78). PKT_REQ: a delivered packet (R95, R96). PKT_REPLY: a reply as the peer reads it (R52). Then the encoder,
the frame of a packet (R46, R87), the decoder over a whole stream in its two forms (R65, R79), and the opcode table's
bit numbering for the host. -/

namespace Sys2Proof

/-- Why bytes are no instruction of a layer. -/
inductive DecodeError where
  /-- A packet of length 0 is never delivered (R54 b). -/
  | emptyPacket
  /-- A reply of one byte. -/
  | shortReply
  /-- A reply whose two header bytes differ (R47). -/
  | headerMismatch
  /-- A reply header that is no tag (R52). -/
  | unknownReply
  /-- INTERRUPT has no reply (R52, R101). -/
  | interruptHasNoReply
  /-- An acknowledgment has no payload (R52). -/
  | ackWithPayload
  deriving DecidableEq, Repr

/-! ## FRAME_SYM -/

/-- The arm `rx_step(b)` selects, tests in the order of R66. Total: every pair has one arm (R78). `len` is `rx_len`. -/
def decodeSymbol (c : Config) (m : RxState) (len : Nat) (b : Byte) : Instr :=
  match m with
  | .normal =>
    if b = c.END then (if len = 0 then .endEmptyFrame else .endOfFrame)
    else if b = c.ESC then .esc
    else .literal b
  | .esc =>
    if b = c.ESC_END then .escEnd
    else if b = c.ESC_ESC then .escEsc
    else if b = c.END then .endAfterEsc
    else .badEscape b
  | .discard => if b = c.END then .endResync else .discarded b

/-! ## PKT_REQ -/

/-- The selection of R95 for a packet: length, then equality of the two header bytes, then the tag; `drop` for every
packet that is not well-formed (R96). The continuations of the four opcodes receive the payload (R50). The decoder and
the dispatcher are both this one selection. -/
def byTag {α : Type} (c : Config) (p : Packet) (drop : α)
    (termspecQuery keyPoll displayWrite interrupt : List Byte → α) : α :=
  match p with
  | a :: b :: payload =>
    if a ≠ b then drop
    else if a = c.T_TERMSPEC_QUERY then termspecQuery payload
    else if a = c.T_KEY_POLL then keyPoll payload
    else if a = c.T_DISPLAY_WRITE then displayWrite payload
    else if a = T_INTERRUPT then interrupt payload
    else drop
  | _ => drop

/-- The instruction of a delivered packet. Only the empty packet is rejected: it is never delivered (R54 b). -/
def decodePacket (c : Config) (p : Packet) : Except DecodeError Instr :=
  match p with
  | [] => .error .emptyPacket
  | _ :: _ => .ok (byTag c p (.drop p) .termspecQuery .keyPoll .displayWrite .interrupt)

/-- Why a packet that is not well-formed is dropped; the tests in the order of R95 (R149 item 3). -/
def dropReason : Packet → DropReason
  | a :: b :: _ => if a ≠ b then .mismatch else .unknown
  | _ => .short

/-! ## PKT_REPLY -/

/-- A reply as the peer reads it (R52). The block itself never decodes one (R48). -/
def decodeReply (c : Config) (p : Packet) : Except DecodeError Instr :=
  match p with
  | [] => .error .emptyPacket
  | [_] => .error .shortReply
  | a :: b :: payload =>
    if a ≠ b then .error .headerMismatch
    else if a = c.T_TERMSPEC_QUERY then .ok (.termspecReply payload)
    else if a = c.T_KEY_POLL then .ok (.keysReply payload)
    else if a = c.T_DISPLAY_WRITE then (if payload = [] then .ok .ackReply else .error .ackWithPayload)
    else if a = T_INTERRUPT then .error .interruptHasNoReply
    else .error .unknownReply

/-! ## The layers together -/

/-- Where an instruction is read: a wire byte in a decoder state, a delivered packet, or a reply at the peer. -/
inductive Layer where
  | symbol (m : RxState) (len : Nat)
  | request
  | reply
  deriving DecidableEq, Repr

/-- The one decoder, by layer. Total on any bytes. -/
def decode (c : Config) (l : Layer) (bytes : List Byte) : Except DecodeError Instr :=
  match l with
  | .symbol m len =>
    match bytes with
    | [] => .error .emptyPacket
    | b :: _ => .ok (decodeSymbol c m len b)
  | .request => decodePacket c bytes
  | .reply => decodeReply c bytes

/-- The layer and context a row of the table is matched in (R48 and the rows' `context` fields). -/
def Instr.inLayer (i : Instr) (l : Layer) : Bool :=
  match i with
  | .termspecQuery _ | .keyPoll _ | .displayWrite _ | .interrupt _ | .drop _ => l == .request
  | .termspecReply _ | .keysReply _ | .ackReply => l == .reply
  | .endEmptyFrame => l == .symbol .normal 0
  | .endOfFrame => match l with | .symbol .normal len => len != 0 | _ => false
  | .esc | .literal _ => match l with | .symbol .normal _ => true | _ => false
  | .escEnd | .escEsc | .endAfterEsc | .badEscape _ => match l with | .symbol .esc _ => true | _ => false
  | .endResync | .discarded _ => match l with | .symbol .discard _ => true | _ => false

/-! ## The encoder -/

/-- A packet from its tag and payload: the tag twice, then the payload (R47, R52). -/
def withHeader (tag : Byte) (payload : List Byte) : Packet := tag :: tag :: payload

/-- The bytes of an instruction: the packet of a PKT_REQ or PKT_REPLY row (R47, R51, R52), the one wire byte of a
FRAME_SYM row (R48). -/
def encode (c : Config) : Instr → List Byte
  | .termspecQuery extra => withHeader c.T_TERMSPEC_QUERY extra
  | .keyPoll extra => withHeader c.T_KEY_POLL extra
  | .displayWrite payload => withHeader c.T_DISPLAY_WRITE payload
  | .interrupt extra => withHeader T_INTERRUPT extra
  | .drop p => p
  | .termspecReply ident => withHeader c.T_TERMSPEC_QUERY ident
  | .keysReply keys => withHeader c.T_KEY_POLL keys
  | .ackReply => withHeader c.T_DISPLAY_WRITE []
  | .endEmptyFrame => [c.END]
  | .endOfFrame => [c.END]
  | .esc => [c.ESC]
  | .literal b => [b]
  | .escEnd => [c.ESC_END]
  | .escEsc => [c.ESC_ESC]
  | .endAfterEsc => [c.END]
  | .badEscape b => [b]
  | .endResync => [c.END]
  | .discarded b => [b]

/-! ## Frames -/

/-- The escape map of one packet byte (R46). -/
def escByte (c : Config) (b : Byte) : List Byte :=
  if b = c.END then [c.ESC, c.ESC_END]
  else if b = c.ESC then [c.ESC, c.ESC_ESC]
  else [b]

/-- `frame(p)` = `encode(p)`: the escaped bytes, then exactly one `END` (R46, R87). Total. -/
def frame (c : Config) (p : Packet) : List Byte := p.flatMap (escByte c) ++ [c.END]

/-! ## The decoder over a stream -/

/-- The decoder alone, for streams: `rx_state` and the decoded bytes held (R65). -/
structure RxDecoder where
  mode : RxState
  held : List Byte
  deriving DecidableEq, Repr

namespace RxDecoder

/-- The decoder after reset (R24). -/
def fresh : RxDecoder := ⟨.normal, []⟩

/-- `store(v)` (R70), on the decoder alone. -/
def store (c : Config) (v : Byte) (d : RxDecoder) : RxDecoder :=
  if d.held.length < c.RX_CAP then ⟨.normal, d.held ++ [v]⟩ else ⟨.discard, []⟩

/-- One received byte: the next decoder state and the packet passed to `deliver`, if any (R65, R78). -/
def feed (c : Config) (d : RxDecoder) (b : Byte) : RxDecoder × Option Packet :=
  match decodeSymbol c d.mode d.held.length b with
  | .endOfFrame => (⟨d.mode, []⟩, some d.held)
  | .esc => (⟨.esc, d.held⟩, none)
  | .literal v => (d.store c v, none)
  | .escEnd => (d.store c c.END, none)
  | .escEsc => (d.store c c.ESC, none)
  | .endAfterEsc => (⟨.normal, []⟩, none)
  | .badEscape _ => (⟨.discard, []⟩, none)
  | .endResync => (⟨.normal, d.held⟩, none)
  | .endEmptyFrame | .discarded _ => (d, none)
  | .termspecQuery _ | .keyPoll _ | .displayWrite _ | .interrupt _ | .drop _ => (d, none)
  | .termspecReply _ | .keysReply _ | .ackReply => (d, none)

/-- The packets passed to `deliver` while a stream is read, in order. -/
def packets (c : Config) (d : RxDecoder) : List Byte → List Packet
  | [] => []
  | b :: bs => (d.feed c b).2.toList ++ packets c (d.feed c b).1 bs

end RxDecoder

/-- `decode_stream(s)`: the packets passed to `deliver`, read from the reset state (R79, its first sentence). -/
def decodeStream (c : Config) (s : List Byte) : List Packet := RxDecoder.fresh.packets c s

/-- The finished segments of a stream: it is split at every `END`, the bytes after the last `END` form an unfinished
segment and yield nothing (R79). `cur` is the segment so far. -/
def segments (c : Config) (cur : List Byte) : List Byte → List (List Byte)
  | [] => []
  | b :: bs => if b = c.END then cur :: segments c [] bs else segments c (cur ++ [b]) bs

/-- A segment with `ESC ESC_END` replaced by `END` and `ESC ESC_ESC` by `ESC`, left to right; none if an `ESC` is
followed by any other byte or by the end of the segment (R79). -/
def unescape (c : Config) : List Byte → Option (List Byte)
  | [] => some []
  | [b] => if b = c.ESC then none else some [b]
  | b :: d :: rest =>
    if b = c.ESC then
      if d = c.ESC_END then (unescape c rest).map (c.END :: ·)
      else if d = c.ESC_ESC then (unescape c rest).map (c.ESC :: ·)
      else none
    else (unescape c (d :: rest)).map (b :: ·)

/-- The packet a finished segment yields: none if it is empty, damaged, or longer than `RX_CAP` once decoded (R79). -/
def segmentPacket (c : Config) (seg : List Byte) : Option Packet :=
  match unescape c seg with
  | some p => if p ≠ [] ∧ p.length ≤ c.RX_CAP then some p else none
  | none => none

/-- `decode_stream(s)` segment by segment, each judged alone (R79, its second sentence). -/
def decodeSegments (c : Config) (s : List Byte) : List Packet := (segments c [] s).filterMap (segmentPacket c)

/-! ## The opcode table's bits -/

/-- Byte `k` of a table word, byte 0 its least significant. -/
def tableByte (w k : Nat) : Byte := BitVec.ofNat 8 (w / 2 ^ (8 * k))

/-- Whether a table word is a wire byte (FRAME_SYM) or a packet (PKT_REQ). A FRAME_SYM word has 8 bits (R48). The table
lists a field at bit 8 beside these rows and one at bit 16 beside the DROP row, so a word of up to 16 bits with no bit
above bit 8 set is taken for a wire byte too (log entry 11); a packet whose header has a zero first byte is then reached
with a byte after it, as the DROP row shows one. -/
def isSymbolWord (nbits w : Nat) : Bool := nbits ≤ 8 || (nbits ≤ 16 && w < 2 ^ 9)

/-- The packet of a PKT_REQ word as the spec lays it out: the 16-bit header puts packet byte 0 in bits 15:8 (R34, R48),
the bytes after it count on from bit 16. -/
def tablePacket (nbits w : Nat) : Packet :=
  tableByte w 1 :: tableByte w 0 :: (List.range ((nbits - 9) / 8)).map (fun k => tableByte w (k + 2))

/-- The decoder state a FRAME_SYM word of the table is read in: RX_ESC for the substitution bytes, whose rows exist in
that state only, else RX_NORMAL as after reset. -/
def tableContext (c : Config) (b : Byte) : RxState := if b = c.ESC_END ∨ b = c.ESC_ESC then .esc else .normal

/-- The instruction the decoder reads from a word of spec/opcode_table.json, under the configuration whose values the
table shows (R48: `match_is_default_only`). A FRAME_SYM word is read with an empty buffer. -/
def decodeTableWord (nbits w : Nat) : Option Instr :=
  let c := Config.cfgDefault
  let b := tableByte w 0
  let read := if isSymbolWord nbits w then decode c (.symbol (tableContext c b) 0) [b] else decode c .request (tablePacket nbits w)
  match read with
  | .ok i => some i
  | .error _ => none

end Sys2Proof
end

