-- ==== Sys2Proof/Machine/State.lean ====
section
/-! DEFINITION. The state of the block as plain data (spec/10_state.md R10 to R24), the events it takes
(spec/44_session_loop.md R125), what it can be seen to do (R20, R140), how it can stop, and the state after reset. -/

namespace Sys2Proof.Machine

/-- The contents of a storage space: cells in rising order of index, one entry a cell. An unlisted cell has no value
(R11, R13, R24: unspecified; U9), so every listed entry differs from an unlisted one and the form is canonical. -/
abbrev Memory := List Host.Cell

/-- One storage space with its length counter: `rx_buf` with `rx_len`, `kb_buf` with `kb_len` (R11 to R14, R30). -/
structure Buffer where
  cells : Memory
  len : Nat
  deriving DecidableEq, Repr

/-- `run` (R18). -/
inductive Run where
  | running
  | halted
  deriving DecidableEq, Repr

/-- `halt_cause` (R18). -/
inductive HaltCause where
  | none
  | interrupt
  | xport
  deriving DecidableEq, Repr

/-- The abnormal events of R140, under the spec's symbolic names. `halt` is called with INTERRUPT or XPORT (R147). -/
inductive Abnormal where
  | framingEsc
  | framingOvf
  | protocolDrop (reason : DropReason)
  | kbOverflow (k : Byte)
  | halt (cause : HaltCause)
  deriving DecidableEq, Repr

/-- What the block is seen to do, in the one total order of R39. -/
inductive Obs where
  /-- A byte handed to the Transport Shim: `emit_tx` (R20). -/
  | tx (b : Byte)
  /-- A byte handed to the Local I/O Shim: `emit_disp` (R20). -/
  | disp (b : Byte)
  /-- `raise` (R9): an abnormal event of R140. No storage of the block, read by no rule (log entry 6). -/
  | raised (e : Abnormal)
  deriving DecidableEq, Repr

/-- The events the environment supplies (R125). -/
inductive Event where
  | reset
  /-- A transport byte, with the environment's draw for a reply sent in this event (R146): `none`, no `emit_tx` fails;
  `some k`, exactly the first `k` succeed. -/
  | rxByte (b : Byte) (draw : Option Nat)
  | key (k : Byte)
  | xportFail
  deriving DecidableEq, Repr

/-- The state of the block (R10), its configuration, and the model's three fields of its own. -/
structure State where
  /-- `CFG`: constant for the life of the block (R10, R22); a field because `step` has no other argument. -/
  cfg : Config
  /-- `rx_buf`, `rx_len` (R11, R12). -/
  rx : Buffer
  /-- `rx_state` (R17). -/
  rxState : RxState
  /-- `kb_buf`, `kb_len` (R13, R14). -/
  kb : Buffer
  /-- `run` (R18). -/
  run : Run
  /-- `halt_cause` (R18). -/
  haltCause : HaltCause
  /-- `f_esc_err` (R21). -/
  fEscErr : Bool
  /-- `f_rx_ovf` (R21). -/
  fRxOvf : Bool
  /-- `f_kb_ovf` (R21). -/
  fKbOvf : Bool
  /-- `f_drop` (R21). -/
  fDrop : Bool
  /-- The model's own: what the block has done since reset, oldest first. `tx_out` and `disp_out` (R20) are views. -/
  trace : List Obs
  /-- The model's own: how many more `emit_tx` of the event in progress succeed; `none`, all of them (R146). -/
  txRoom : Option Nat
  /-- The model's own: the environment's pending events, oldest first (R125, R128). -/
  inputs : List Event
  deriving DecidableEq, Repr

/-- Why the machine stops with a fault. -/
inductive Fault where
  /-- Raised by a read of `rx_buf` (end of frame) or `kb_buf` (KEY_POLL) that meets a cell without a value (U9: "a model
  that finds itself reading one has a bug and should `fault`"). Safe: no state that meets the invariant reaches it. -/
  | cellWithoutValue
  deriving DecidableEq, Repr

/-- Why the machine gives no meaning. -/
inductive Refusal where
  /-- Raised by an arm of `exec` whose instruction has no meaning yet; no arm is left. Safe. -/
  | notModelled (mnemonic : String)
  /-- Raised by `step` under a configuration that breaks a constraint of R6 ("refused by the model, not given a
  meaning"; U10). Safe. -/
  | illFormedConfig
  deriving DecidableEq, Repr

/-- The outcome of `send(p)` (R86): `OK`, or `FAILED` as soon as one `emit_tx` fails, with the state left. -/
inductive Sent where
  | ok (s : State)
  | failed (s : State)
  deriving DecidableEq, Repr

/-- The state after `Reset` under a configuration (R24, R170): no cell has a value, no event is pending. -/
def State.resetWith (c : Config) : State where
  cfg := c
  rx := ⟨[], 0⟩
  rxState := .normal
  kb := ⟨[], 0⟩
  run := .running
  haltCause := .none
  fEscErr := false
  fRxOvf := false
  fKbOvf := false
  fDrop := false
  trace := []
  txRoom := none
  inputs := []

/-- The machine right after reset, under `CFG_DEFAULT` (log entry 1). -/
def State.reset : State := State.resetWith Config.cfgDefault

end Sys2Proof.Machine
end

