-- ==== Sys2Proof/Machine/Flags.lean ====
section
/-! DEFINITION. The four sticky status flags (spec/10_state.md R21): each is set to 1 by one event kind, cleared only by
`Reset`, read by no rule. -/

namespace Sys2Proof.Machine.State

/-- `f_esc_err <- 1` (R141). -/
def setEscErr (s : State) : State := { s with fEscErr := true }

/-- `f_rx_ovf <- 1` (R142). -/
def setRxOvf (s : State) : State := { s with fRxOvf := true }

/-- `f_kb_ovf <- 1` (R144). -/
def setKbOvf (s : State) : State := { s with fKbOvf := true }

/-- `f_drop <- 1` (R143). -/
def setDrop (s : State) : State := { s with fDrop := true }

end Sys2Proof.Machine.State
end

