-- ==== Sys2Proof/Machine/Ops.lean ====
section
/-! DEFINITION. The shared operations: the storage spaces (spec/20_memory.md R30 to R32, R36), the writes of scalar state
(R9), `raise` and `halt` (spec/60_exceptions.md R140, R147), `emit_tx`, `emit_disp`, `enc_byte`, `send`
(spec/41_framing_encoder.md R85, R86, R146), `store` (R70) and the `Reset` event (R170). -/

namespace Sys2Proof.Machine

/-! ## Storage -/

namespace Memory

/-- The canonical form: indices strictly rising. -/
def wf : Memory → Bool
  | [] => true
  | [_] => true
  | (a, _) :: (b, y) :: m => a < b && wf ((b, y) :: m)

/-- `MemRead(space, i, 1)`: a cell's value, `none` for a cell that has none. -/
def read (a : Nat) : Memory → Option Byte
  | [] => none
  | (b, v) :: m => if b = a then some v else read a m

/-- `MemWrite(space, i, 1, v)`. -/
def write (a : Nat) (v : Byte) : Memory → Memory
  | [] => [(a, v)]
  | (b, w) :: m =>
    if a < b then (a, v) :: (b, w) :: m
    else if a = b then (a, v) :: m
    else (b, w) :: write a v m

/-- The values of cells `0 .. n-1` in index order; `none` if one of them has no value. -/
def readUpTo (m : Memory) : Nat → Option (List Byte)
  | 0 => some []
  | n + 1 =>
    match readUpTo m n, read n m with
    | some bs, some b => some (bs ++ [b])
    | _, _ => none

end Memory

namespace Buffer

/-- A buffer that holds nothing: length 0, no cell has a value. -/
def empty : Buffer := ⟨[], 0⟩

/-- `x[len] <- v; len <- len + 1`: the only write to a buffer (R31, R32). -/
def push (v : Byte) (b : Buffer) : Buffer := ⟨b.cells.write b.len v, b.len + 1⟩

/-- The bytes held, `x[0 .. len-1]`; `none` if one of the cells has no value (U9). -/
def bytes (b : Buffer) : Option (List Byte) := b.cells.readUpTo b.len

/-- One cell as a rule may read it: nothing at or above the length (R11, R13). -/
def read (a : Nat) (b : Buffer) : Option Byte := if a < b.len then b.cells.read a else none

/-- A buffer holding the given bytes at indices `0, 1, ..`. -/
def ofBytes (bs : List Byte) : Buffer := bs.foldl (fun b v => b.push v) empty

end Buffer

namespace State

/-! ## The output streams (R20) -/

/-- `tx_out`: the bytes handed to the Transport Shim since reset. -/
def txOut (s : State) : List Byte := s.trace.filterMap fun | .tx b => some b | .disp _ => none | .raised _ => none

/-- `disp_out`: the bytes handed to the Local I/O Shim since reset. -/
def dispOut (s : State) : List Byte := s.trace.filterMap fun | .disp b => some b | .tx _ => none | .raised _ => none

/-- The abnormal events raised since reset. -/
def raisedOut (s : State) : List Abnormal :=
  s.trace.filterMap fun | .raised e => some e | .tx _ => none | .disp _ => none

/-! ## Writes of scalar state -/

/-- Append to the trace. -/
def observe (o : Obs) (s : State) : State := { s with trace := s.trace ++ [o] }

/-- `rx_state <- m`. -/
def setRxState (m : RxState) (s : State) : State := { s with rxState := m }

/-- Replace `rx_buf`, `rx_len`. -/
def setRx (b : Buffer) (s : State) : State := { s with rx := b }

/-- Replace `kb_buf`, `kb_len`. -/
def setKb (b : Buffer) (s : State) : State := { s with kb := b }

/-- `run <- HALTED; halt_cause <- c` (R147). -/
def setHalted (c : HaltCause) (s : State) : State := { s with run := .halted, haltCause := c }

/-- The environment's draw for the event in progress (R146). -/
def setTxRoom (k : Option Nat) (s : State) : State := { s with txRoom := k }

/-- The events still pending. -/
def setInputs (es : List Event) (s : State) : State := { s with inputs := es }

/-- `rx_len <- 0`: the cells hold no meaningful value from here on (R11; log entry 5). -/
def clearRx (s : State) : State := s.setRx Buffer.empty

/-- `kb_len <- 0`: the cells hold no readable value from here on (R13, R117; log entry 5). -/
def clearKb (s : State) : State := s.setKb Buffer.empty

end State

/-! ## Abnormal events -/

/-- What an abnormal event records, the column "recorded" of R140. -/
def record (e : Abnormal) (s : State) : State :=
  match e with
  | .framingEsc => s.setEscErr
  | .framingOvf => s.setRxOvf
  | .protocolDrop _ => s.setDrop
  | .kbOverflow _ => s.setKbOvf
  | .halt c => s.setHalted c

/-- `raise e` (R9, R140, R150): the event is seen and recorded, inside the event that met the cause; no state is saved,
no mode changes, no handler runs. This is the block's one way of taking an exception. -/
def raise (e : Abnormal) (s : State) : State := record e (s.observe (.raised e))

/-- `halt(c)` (R147). -/
def halt (c : HaltCause) (s : State) : State := raise (.halt c) s

/-- `Reset` (R170): in every state. `CFG` is not changed, the pending events stay pending. This is the only way out of
`HALTED` (R151). -/
def resetBlock (s : State) : State := { State.resetWith s.cfg with inputs := s.inputs }

/-! ## Output -/

/-- `emit_tx(b)` (R9, R146): the byte is appended to `tx_out`, or the transport fails, as the draw says. -/
def emitTx (b : Byte) (s : State) : Sent :=
  match s.txRoom with
  | none => .ok (s.observe (.tx b))
  | some 0 => .failed s
  | some (k + 1) => .ok ((s.observe (.tx b)).setTxRoom (some k))

/-- Go on after a transmission that succeeded; one that failed ends the enclosing `send` (R85). -/
def Sent.andThen (r : Sent) (f : State → Sent) : Sent :=
  match r with
  | .ok s => f s
  | .failed s => .failed s

/-- `enc_byte(b)` (R85). -/
def encByte (b : Byte) (s : State) : Sent :=
  if b = s.cfg.END then (emitTx s.cfg.ESC s).andThen fun t => emitTx t.cfg.ESC_END t
  else if b = s.cfg.ESC then (emitTx s.cfg.ESC s).andThen fun t => emitTx t.cfg.ESC_ESC t
  else emitTx b s

/-- The loop of `send` (R86): the packet bytes in index order. -/
def encBytes : List Byte → State → Sent
  | [], s => .ok s
  | b :: bs, s => (encByte b s).andThen (encBytes bs)

/-- `send(p)` (R86): the escaped bytes, then exactly one `END`, none before. -/
def send (p : Packet) (s : State) : Sent := (encBytes p s).andThen fun t => emitTx t.cfg.END t

/-- `r <- send(p)`, then `onOk`, or `halt(XPORT)` where it failed (R98 to R100, R146). -/
def sendOrHalt (p : Packet) (onOk : State → State) (s : State) : State :=
  match send p s with
  | .ok t => onOk t
  | .failed t => halt .xport t

/-- `emit_disp(b)` (R9): it cannot fail (R33). -/
def emitDisp (b : Byte) (s : State) : State := s.observe (.disp b)

/-- `for i: emit_disp(payload[i])` (R100). -/
def emitDispAll : List Byte → State → State
  | [], s => s
  | b :: bs, s => emitDispAll bs (emitDisp b s)

/-! ## The receive buffer -/

/-- `store(v)` (R70, R142): the capacity test comes first (R31). -/
def store (v : Byte) (s : State) : State :=
  if s.rx.len < s.cfg.RX_CAP then (s.setRx (s.rx.push v)).setRxState .normal
  else ((raise .framingOvf s).clearRx).setRxState .discard

end Sys2Proof.Machine
end

