-- ==== Sys2Proof/Machine/Operands.lean ====
section
/-! DEFINITION. The operands: what is fixed by the opcode is read from its buffer (spec/10_state.md R15,
spec/30_encoding.md R50), what a reply carries is built from its header and payload (R52). No opcode has a register, an
address or an immediate. -/

namespace Sys2Proof.Machine

/-- `p <- rx_buf[0 .. n-1]`: the decoded packet (R68). -/
def rxPacket (s : State) : Option Packet := s.rx.bytes

/-- `kb_buf[0 .. kb_len-1]`: the keys held, in order (R99, R117). -/
def kbKeys (s : State) : Option (List Byte) := s.kb.bytes

/-- The TERMSPEC reply: the header echoed, then the payload (R52). -/
def termspecPacket (ident : List Byte) (s : State) : Packet := withHeader s.cfg.T_TERMSPEC_QUERY ident

/-- The KEYS reply (R52). -/
def keysPacket (keys : List Byte) (s : State) : Packet := withHeader s.cfg.T_KEY_POLL keys

/-- The ACK reply: "opcode echoed, no payload" (R52). -/
def ackPacket (s : State) : Packet := withHeader s.cfg.T_DISPLAY_WRITE []

end Sys2Proof.Machine
end

