-- ==== Sys2Proof/Machine/Replies.lean ====
section
/-! DEFINITION. The PKT_REPLY rows (spec/30_encoding.md R52): the block's side of a reply is its transmission, with the
halt where the transport fails (spec/60_exceptions.md R146). The block never decodes one (R48). -/

namespace Sys2Proof.Machine

/-- TERMSPEC (reply) (R98). -/
def execTermspecReply (ident : List Byte) (s : State) : Host.Outcome State Fault Refusal :=
  .next (sendOrHalt (termspecPacket ident s) (fun t => t) s)

/-- KEYS (reply) (R99): the transmission; the drain is KEY_POLL's alone (R117). -/
def execKeysReply (keys : List Byte) (s : State) : Host.Outcome State Fault Refusal :=
  .next (sendOrHalt (keysPacket keys s) (fun t => t) s)

/-- ACK (reply) (R100). -/
def execAckReply (s : State) : Host.Outcome State Fault Refusal :=
  .next (sendOrHalt (ackPacket s) (fun t => t) s)

end Sys2Proof.Machine
end

