-- ==== Sys2Proof/Machine/Dispatcher.lean ====
section
/-! DEFINITION. The protocol dispatcher (spec/42_dispatcher.md): the four opcodes, the drop, and `deliver`. Each is one
atomic request/reply cycle inside the event that delivered the packet (R97). -/

namespace Sys2Proof.Machine

/-- TERMSPEC_QUERY (R98): the reply is the same every time; extra bytes are ignored (R96). -/
def execTermspecQuery (_extra : List Byte) (s : State) : Host.Outcome State Fault Refusal :=
  .next (sendOrHalt (termspecPacket s.cfg.TERMSPEC_ID s) (fun t => t) s)

/-- KEY_POLL (R99): the keys held are sent; the FIFO is emptied when the reply was sent, and only then. -/
def execKeyPoll (_extra : List Byte) (s : State) : Host.Outcome State Fault Refusal :=
  match kbKeys s with
  | some keys => .next (sendOrHalt (keysPacket keys s) State.clearKb s)
  | none => .fault .cellWithoutValue

/-- DISPLAY_WRITE (R100): every payload byte to the display, in order, then one acknowledgment (R44). -/
def execDisplayWrite (payload : List Byte) (s : State) : Host.Outcome State Fault Refusal :=
  .next (sendOrHalt (ackPacket s) (fun t => t) (emitDispAll payload s))

/-- INTERRUPT (R101): `halt(INTERRUPT)`, no reply. -/
def execInterrupt (_extra : List Byte) (s : State) : Host.Outcome State Fault Refusal :=
  .next (halt .interrupt s)

/-- DROP (R102): `raise ProtocolDrop(reason); f_drop <- 1` and nothing else. -/
def execDrop (p : Packet) (s : State) : Host.Outcome State Fault Refusal :=
  .next (raise (.protocolDrop (dropReason p)) s)

/-- `deliver(p)` (R95). A packet of length 0 is never delivered (R54 b), and none is acted upon. -/
def deliver (p : Packet) (s : State) : Host.Outcome State Fault Refusal :=
  match p with
  | [] => .next s
  | _ :: _ =>
    byTag s.cfg p (execDrop p s) (fun x => execTermspecQuery x s) (fun x => execKeyPoll x s)
      (fun x => execDisplayWrite x s) (fun x => execInterrupt x s)

end Sys2Proof.Machine
end

