-- ==== Sys2Proof/Machine/FrameSym.lean ====
section
/-! DEFINITION. The framing decoder, one meaning per arm of `rx_step` (spec/40_framing_decoder.md R67 to R77). An arm's
condition is the decoder's (`decodeSymbol`, R66); a meaning is its effect. -/

namespace Sys2Proof.Machine

/-- END, empty frame (R67): no packet yet, not an error. -/
def execEndEmptyFrame (s : State) : Host.Outcome State Fault Refusal := .next s

/-- END, end of frame (R68): the packet is copied, `rx_len <- 0`, `deliver(p)` in the same event. -/
def execEndOfFrame (s : State) : Host.Outcome State Fault Refusal :=
  match rxPacket s with
  | some p => deliver p s.clearRx
  | none => .fault .cellWithoutValue

/-- ESC (R69): nothing is stored for it. -/
def execEsc (s : State) : Host.Outcome State Fault Refusal := .next (s.setRxState .esc)

/-- LITERAL (R71). -/
def execLiteral (b : Byte) (s : State) : Host.Outcome State Fault Refusal := .next (store b s)

/-- ESC_END (R72): a literal `END` is stored. -/
def execEscEnd (s : State) : Host.Outcome State Fault Refusal := .next (store s.cfg.END s)

/-- ESC_ESC (R73): a literal `ESC` is stored. -/
def execEscEsc (s : State) : Host.Outcome State Fault Refusal := .next (store s.cfg.ESC s)

/-- END_AFTER_ESC (R74, R141): the damaged frame is discarded, this `END` resynchronises. -/
def execEndAfterEsc (s : State) : Host.Outcome State Fault Refusal :=
  .next (((raise .framingEsc s).clearRx).setRxState .normal)

/-- BAD_ESCAPE (R75, R141): the frame is discarded up to the next `END`. -/
def execBadEscape (_b : Byte) (s : State) : Host.Outcome State Fault Refusal :=
  .next (((raise .framingEsc s).clearRx).setRxState .discard)

/-- END, resync (R76). -/
def execEndResync (s : State) : Host.Outcome State Fault Refusal := .next (s.setRxState .normal)

/-- DISCARDED (R77): the byte is consumed and forgotten. -/
def execDiscarded (_b : Byte) (s : State) : Host.Outcome State Fault Refusal := .next s

end Sys2Proof.Machine
end

