-- ==== Sys2Proof/Machine/Dispatch.lean ====
section
/-! DEFINITION. What each instruction does: one arm per row of spec/opcode_table.json. -/

namespace Sys2Proof.Machine

/-- The meaning of an instruction. -/
def exec (i : Instr) (s : State) : Host.Outcome State Fault Refusal :=
  match i with
  -- PKT_REQ (spec/42_dispatcher.md)
  | .termspecQuery extra => Sys2Proof.Machine.execTermspecQuery extra s
  | .keyPoll extra => Sys2Proof.Machine.execKeyPoll extra s
  | .displayWrite payload => Sys2Proof.Machine.execDisplayWrite payload s
  | .interrupt extra => Sys2Proof.Machine.execInterrupt extra s
  | .drop packet => Sys2Proof.Machine.execDrop packet s
  -- PKT_REPLY (spec/30_encoding.md R52)
  | .termspecReply ident => Sys2Proof.Machine.execTermspecReply ident s
  | .keysReply keys => Sys2Proof.Machine.execKeysReply keys s
  | .ackReply => Sys2Proof.Machine.execAckReply s
  -- FRAME_SYM (spec/40_framing_decoder.md R78)
  | .endEmptyFrame => Sys2Proof.Machine.execEndEmptyFrame s
  | .endOfFrame => Sys2Proof.Machine.execEndOfFrame s
  | .esc => Sys2Proof.Machine.execEsc s
  | .literal b => Sys2Proof.Machine.execLiteral b s
  | .escEnd => Sys2Proof.Machine.execEscEnd s
  | .escEsc => Sys2Proof.Machine.execEscEsc s
  | .endAfterEsc => Sys2Proof.Machine.execEndAfterEsc s
  | .badEscape b => Sys2Proof.Machine.execBadEscape b s
  | .endResync => Sys2Proof.Machine.execEndResync s
  | .discarded b => Sys2Proof.Machine.execDiscarded b s

end Sys2Proof.Machine
end

