-- ==== Sys2Proof/Machine/Events.lean ====
section
/-! DEFINITION. The events (spec/44_session_loop.md R125 to R127, spec/43_keystroke_fifo.md R116 to R119,
spec/60_exceptions.md R145, spec/70_reset_and_hazards.md R170), and how a table word is laid where the next step reads
it. A halted block takes only `Reset` (R18). -/

namespace Sys2Proof.Machine

/-- The instruction a transport byte is, in the decoder state the block is in (R66). -/
def fetchSymbol (b : Byte) (s : State) : Instr := decodeSymbol s.cfg s.rxState s.rx.len b

/-- `RxByte(b)` (R126) with the environment's draw for a reply sent in it (R146). -/
def rxByte (b : Byte) (draw : Option Nat) (s : State) : Host.Outcome State Fault Refusal :=
  match s.run with
  | .halted => .next s
  | .running => exec (fetchSymbol b s) (s.setTxRoom draw)

/-- `Key(k)` (R127): append with room (R116), refuse the new key when full (R118), nothing when halted (R119). -/
def key (k : Byte) (s : State) : State :=
  match s.run with
  | .halted => s
  | .running => if s.kb.len < s.cfg.KB_CAP then s.setKb (s.kb.push k) else raise (.kbOverflow k) s

/-- `XportFail` (R145); when halted the first cause is kept. -/
def xportFail (s : State) : State :=
  match s.run with
  | .halted => s
  | .running => halt .xport s

/-- One event, atomically (R125). -/
def takeEvent (e : Event) (s : State) : Host.Outcome State Fault Refusal :=
  match e with
  | .reset => .next (resetBlock s)
  | .rxByte b draw => rxByte b draw s
  | .key k => .next (key k s)
  | .xportFail => .next (xportFail s)

/-- The oldest pending event; with none pending nothing happens (R133). -/
def nextEvent (s : State) : Host.Outcome State Fault Refusal :=
  match s.inputs with
  | [] => .next s
  | e :: rest => takeEvent e (s.setInputs rest)

/-- A table word where the next step reads its instruction, in a block that takes events: a wire byte as the oldest
pending event in the decoder state its row is matched in; a packet in `rx_buf` with its closing `END` as the oldest
pending event (log entry 11). -/
def placeTableWord (nbits w : Nat) (s : State) : State :=
  if isSymbolWord nbits w then
    { s with
      rx := Buffer.empty, rxState := tableContext s.cfg (tableByte w 0), run := .running, haltCause := .none
      inputs := .rxByte (tableByte w 0) none :: s.inputs }
  else
    { s with
      rx := Buffer.ofBytes (tablePacket nbits w), rxState := .normal, run := .running, haltCause := .none
      inputs := .rxByte s.cfg.END none :: s.inputs }

end Sys2Proof.Machine
end

