-- ==== Sys2Proof/Machine/Step.lean ====
section
/-! DEFINITION. One step: a configuration that breaks R6 is refused (U10), else the oldest pending event is taken
(spec/44_session_loop.md R125). -/

namespace Sys2Proof.Machine

/-- One step of the block. -/
def step (s : State) : Host.Outcome State Fault Refusal :=
  if s.cfg.Ok then nextEvent s else .refused .illFormedConfig

/-- A word of spec/opcode_table.json where the next step reads its instruction. -/
def State.withFetchWord (s : State) (nbits w : Nat) : State := placeTableWord nbits w s

end Sys2Proof.Machine
end

