-- ==== Sys2Proof/Safety.lean ====
section
/-! DEFINITION. What counts as a safe run, in the terms claims use: the invariant of the block (spec/10_state.md R10, R17,
R18, R19), runs over a schedule of events, and the words for damaged frames and for states that agree but for what the
block never reads. -/

namespace Sys2Proof.Machine

/-- The cells that have a value are exactly those below the length (R11, R13). -/
abbrev Buffer.Filled (b : Buffer) : Prop := b.cells.map Prod.fst = List.range b.len

/-- The invariant: the configuration meets R6, both buffers hold exactly their length within their capacity (R10, R19),
nothing is held in RX_DISCARD (R17), and `run` is RUNNING exactly when `halt_cause` is NONE (R18). -/
abbrev State.Inv (s : State) : Prop :=
  s.cfg.Ok ∧
  s.rx.Filled ∧ s.rx.len ≤ s.cfg.RX_CAP ∧
  s.kb.Filled ∧ s.kb.len ≤ s.cfg.KB_CAP ∧
  (s.rxState = .discard → s.rx.len = 0) ∧
  (s.run = .running ↔ s.haltCause = .none)

/-- A run of `n` steps is safe when none of them stops the machine. -/
def State.SafeFor (n : Nat) (s : State) : Prop := ∃ t, Host.Core.run Sys2Proof.core n s = .next t

/-- The outcome seen through a view of the next state. -/
def mapNext (f : State → State) : Host.Outcome State Fault Refusal → Host.Outcome State Fault Refusal
  | .next s => .next (f s)
  | .fault r => .fault r
  | .refused r => .refused r

/-- The state without its four flags (R21). -/
def State.forgetFlags (s : State) : State :=
  { s with fEscErr := false, fRxOvf := false, fKbOvf := false, fDrop := false }

/-- The state without the record of what it has done (R20). -/
def State.forgetTrace (s : State) : State := { s with trace := [] }

/-- The wire bytes as events, none of them with a transport failure (R57: one `RxByte` event per byte, in order). -/
def rxEvents (bs : List Byte) : List Event := bs.map fun b => .rxByte b none

/-- The events of `frame(p)`, with the draw for the reply at its closing `END` (R45, R146). -/
def frameEvents (c : Config) (p : Packet) (draw : Option Nat) : List Event :=
  rxEvents (p.flatMap (escByte c)) ++ [.rxByte c.END draw]

/-- The environment's draw lets `n` bytes go out: no failure strikes within them (R146: `k` == `L`). -/
def State.RoomFor (n : Nat) (s : State) : Prop := ∀ k, s.txRoom = some k → n ≤ k

/-- The wire bytes of a reply the block may send in this state: the three of R52 and no other. -/
def State.ReplyFrame (s : State) (f : List Byte) : Prop :=
  f = frame s.cfg (withHeader s.cfg.T_TERMSPEC_QUERY s.cfg.TERMSPEC_ID) ∨
  (∃ keys, s.kb.bytes = some keys ∧ f = frame s.cfg (withHeader s.cfg.T_KEY_POLL keys)) ∨
  f = frame s.cfg (withHeader s.cfg.T_DISPLAY_WRITE [])

/-- The wire bytes of the reply to a request, in this state (R103); the payload of the request plays no part. -/
def State.ReplyTo (s : State) (p : Packet) (f : List Byte) : Prop :=
  (∃ x, p = withHeader s.cfg.T_TERMSPEC_QUERY x ∧
    f = frame s.cfg (withHeader s.cfg.T_TERMSPEC_QUERY s.cfg.TERMSPEC_ID)) ∨
  (∃ x keys, p = withHeader s.cfg.T_KEY_POLL x ∧ s.kb.bytes = some keys ∧
    f = frame s.cfg (withHeader s.cfg.T_KEY_POLL keys)) ∨
  (∃ x, p = withHeader s.cfg.T_DISPLAY_WRITE x ∧ f = frame s.cfg (withHeader s.cfg.T_DISPLAY_WRITE []))

/-- The block is about to close a frame that holds the packet `p`: the oldest pending event is the boundary byte. -/
def State.Closes (s : State) (p : Packet) (draw : Option Nat) (rest : List Event) : Prop :=
  s.run = .running ∧ s.rxState = .normal ∧ 0 < s.rx.len ∧ s.rx.bytes = some p ∧
  s.inputs = .rxByte s.cfg.END draw :: rest

/-- A run of bytes that decodes to more than `RX_CAP` bytes (R81). -/
def OverLong (c : Config) (j : List Byte) : Prop := ∃ q, unescape c j = some q ∧ c.RX_CAP < q.length

/-- A run of bytes that contains an invalid escape: an `ESC` that is not itself the second byte of an escape pair,
followed by a byte that is neither substitution byte (R49, R81). -/
def HasInvalidEscape (c : Config) (j : List Byte) : Prop :=
  ∃ before q d after, j = before ++ c.ESC :: d :: after ∧ unescape c before = some q ∧ d ≠ c.ESC_END ∧ d ≠ c.ESC_ESC

end Sys2Proof.Machine
end

