-- ==== Sys2Proof/Certificates/Slice0/Obligations.lean ====
section
/-! DEFINITION. The statements for the provers. Each docstring names the rule of spec/ it formalises. The fields `trace`,
`txRoom` and `inputs` are the model's own (log entries 6, 4, 3): statements that give a next state whole leave the first
two to the output streams and to the draw, and say of `inputs` that the event taken leaves it. Buffers are spoken of by
their length and by the cells below it, never by what stale cells hold (entry 5). -/

open Sys2Proof Sys2Proof.Machine Sys2Proof.Config

/-! ## Sanity -/

/-- Words written out from the opcode table under `CFG_DEFAULT` decode to the instructions they stand for (R48, R51, R52,
R78). -/
def Obligations.SpecWordsDecode : Prop :=
  decodePacket cfgDefault [0x05#8, 0x05#8] = .ok (.termspecQuery []) ∧
  decodePacket cfgDefault [0x11#8, 0x11#8, 0x03#8] = .ok (.keyPoll [0x03#8]) ∧
  decodePacket cfgDefault [0x02#8, 0x02#8, 0x68#8, 0x69#8] = .ok (.displayWrite [0x68#8, 0x69#8]) ∧
  decodePacket cfgDefault [0x03#8, 0x03#8] = .ok (.interrupt []) ∧
  decodePacket cfgDefault [0x09#8, 0x09#8] = .ok (.drop [0x09#8, 0x09#8]) ∧
  decodeReply cfgDefault [0x11#8, 0x11#8, 0x61#8] = .ok (.keysReply [0x61#8]) ∧
  decodeSymbol cfgDefault .normal 3 0xC0#8 = .endOfFrame ∧
  decodeSymbol cfgDefault .normal 3 0xDC#8 = .literal 0xDC#8 ∧
  decodeSymbol cfgDefault .esc 3 0xDC#8 = .escEnd ∧
  decodeSymbol cfgDefault .esc 3 0xDB#8 = .badEscape 0xDB#8 ∧
  decodeSymbol cfgDefault .discard 0 0xDB#8 = .discarded 0xDB#8

/-- `Reset` (R170): in every state, running or halted and in the middle of a frame, every element takes its reset value,
both streams start again, `CFG` is not changed; what the cells hold is left unsaid, as the rule leaves it. -/
def Obligations.ResetEventLeavesResetValues : Prop :=
  ∀ (s : Machine.State) (rest : List Event), s.cfg.Ok → s.inputs = .reset :: rest →
    ∃ t, step s = .next t ∧
      t.rx.len = 0 ∧ t.rxState = .normal ∧ t.kb.len = 0 ∧ t.run = .running ∧ t.haltCause = .none ∧
      t.fEscErr = false ∧ t.fRxOvf = false ∧ t.fKbOvf = false ∧ t.fDrop = false ∧
      t.txOut = [] ∧ t.dispOut = [] ∧ t.cfg = s.cfg ∧ t.inputs = rest

/-- The invariant holds right after reset, under every configuration that meets R6. -/
def Obligations.InvariantHoldsAtReset : Prop :=
  State.reset.Inv ∧ ∀ c : Config, c.Ok → (State.resetWith c).Inv

/-- `RxByte(b)` (R126): a halted block does nothing with the byte; a running one runs the instruction the byte decodes
to in the decoder state it is in. The step takes the event off the pending ones and sets the event's draw, no more. -/
def Obligations.StepRunsDecodedByte : Prop :=
  ∀ (s : Machine.State) (b : Byte) (draw : Option Nat) (rest : List Event), s.cfg.Ok →
    s.inputs = .rxByte b draw :: rest →
    (s.run = .halted → step s = .next { s with inputs := rest }) ∧
    (s.run = .running → ∃ i, decode s.cfg (.symbol s.rxState s.rx.len) [b] = .ok i ∧
      step s = exec i { s with inputs := rest, txRoom := draw })

/-- A configuration that breaks a constraint of R6 is refused, whatever the state and the events (U10). -/
def Obligations.IllFormedConfigRefused : Prop :=
  ∀ s : Machine.State, ¬ s.cfg.Ok → step s = .refused .illFormedConfig

/-! ## The arms of the decoder -/

/-- The arms that store nothing and raise nothing (R67, R69, R76, R77): their conditions select them, and their effects
are these and no more. -/
def Obligations.QuietArms : Prop :=
  ∀ (s : Machine.State) (b : Byte), s.cfg.Ok →
    (s.rxState = .normal → s.rx.len = 0 → b = s.cfg.END →
      decodeSymbol s.cfg s.rxState s.rx.len b = .endEmptyFrame ∧ exec .endEmptyFrame s = .next s) ∧
    (s.rxState = .normal → b = s.cfg.ESC →
      decodeSymbol s.cfg s.rxState s.rx.len b = .esc ∧ exec .esc s = .next { s with rxState := .esc }) ∧
    (s.rxState = .discard → b = s.cfg.END →
      decodeSymbol s.cfg s.rxState s.rx.len b = .endResync ∧
      exec .endResync s = .next { s with rxState := .normal }) ∧
    (s.rxState = .discard → b ≠ s.cfg.END →
      decodeSymbol s.cfg s.rxState s.rx.len b = .discarded b ∧ exec (.discarded b) s = .next s)

/-- The arms that store a byte (R70 to R73): `w` is the wire byte, `v` the decoded byte, `i` the arm. With room the byte
is written at `rx_len` and no other cell is; at capacity the frame is discarded and `f_rx_ovf` is set. -/
def Obligations.StoringArmsStoreOrOverflow : Prop :=
  ∀ (s : Machine.State) (w v : Byte) (i : Instr), s.cfg.Ok →
    ((s.rxState = .normal ∧ w ≠ s.cfg.END ∧ w ≠ s.cfg.ESC ∧ i = .literal w ∧ v = w) ∨
     (s.rxState = .esc ∧ w = s.cfg.ESC_END ∧ i = .escEnd ∧ v = s.cfg.END) ∨
     (s.rxState = .esc ∧ w = s.cfg.ESC_ESC ∧ i = .escEsc ∧ v = s.cfg.ESC)) →
    decodeSymbol s.cfg s.rxState s.rx.len w = i ∧
    (s.rx.len < s.cfg.RX_CAP → ∃ t, exec i s = .next t ∧
      t = { s with rx := t.rx, rxState := .normal } ∧ t.rx.len = s.rx.len + 1 ∧
      t.rx.read s.rx.len = some v ∧ ∀ a, a ≠ s.rx.len → t.rx.read a = s.rx.read a) ∧
    (s.rx.len = s.cfg.RX_CAP → ∃ t, exec i s = .next t ∧
      t = { s with rx := t.rx, rxState := .discard, fRxOvf := true, trace := t.trace } ∧ t.rx.len = 0 ∧
      t.txOut = s.txOut ∧ t.dispOut = s.dispOut ∧ t.raisedOut = s.raisedOut ++ [.framingOvf])

/-- The two framing errors of the escape (R74, R75, R141): the frame is discarded, `f_esc_err` is set, the decoder is at
a boundary if the byte was `END` and discards up to the next one otherwise; nothing is sent, `KB` and `run` untouched. -/
def Obligations.FramingErrorArms : Prop :=
  ∀ (s : Machine.State) (b : Byte), s.cfg.Ok → s.rxState = .esc → b ≠ s.cfg.ESC_END → b ≠ s.cfg.ESC_ESC →
    (b = s.cfg.END → decodeSymbol s.cfg s.rxState s.rx.len b = .endAfterEsc ∧
      ∃ t, exec .endAfterEsc s = .next t ∧
        t = { s with rx := t.rx, rxState := .normal, fEscErr := true, trace := t.trace } ∧ t.rx.len = 0 ∧
        t.txOut = s.txOut ∧ t.dispOut = s.dispOut ∧ t.raisedOut = s.raisedOut ++ [.framingEsc]) ∧
    (b ≠ s.cfg.END → decodeSymbol s.cfg s.rxState s.rx.len b = .badEscape b ∧
      ∃ t, exec (.badEscape b) s = .next t ∧
        t = { s with rx := t.rx, rxState := .discard, fEscErr := true, trace := t.trace } ∧ t.rx.len = 0 ∧
        t.txOut = s.txOut ∧ t.dispOut = s.dispOut ∧ t.raisedOut = s.raisedOut ++ [.framingEsc])

/-- The arm of a byte is the one row of the decoder's table that matches it, so the order of the tests cannot change the
result (R66): a row is selected exactly when it belongs to the context, its byte is the received one, and (a default
row) the byte matches no other row. -/
def Obligations.ArmSelectionIgnoresTestOrder : Prop :=
  ∀ (c : Config) (m : RxState) (len : Nat) (b : Byte) (i : Instr), c.Ok →
    (decodeSymbol c m len b = i ↔
      i.inLayer (.symbol m len) = true ∧ i.wellFormed c = true ∧ encode c i = [b])

/-- End of frame (R68): the `END` that closes a non-empty frame delivers the bytes held, as one packet, with `rx_len` 0
and `rx_state` unchanged; what follows is the instruction the packet decodes to, in the same event. -/
def Obligations.EndOfFrameRunsDecodedPacket : Prop :=
  ∀ (s : Machine.State) (p : Packet), s.cfg.Ok → s.rxState = .normal → 0 < s.rx.len → s.rx.bytes = some p →
    decodeSymbol s.cfg s.rxState s.rx.len s.cfg.END = .endOfFrame ∧
    ∃ i u, decode s.cfg .request p = .ok i ∧ u = { s with rx := u.rx } ∧ u.rx.len = 0 ∧
      exec .endOfFrame s = exec i u

/-- END, end of frame, completes whenever both buffers hold their length: in a next state with `rx_len` 0. -/
def Obligations.EndOfFrameCompletes : Prop :=
  ∀ (s : Machine.State) (p : Packet) (keys : List Byte), s.rx.bytes = some p → s.kb.bytes = some keys →
    ∃ t, exec .endOfFrame s = .next t ∧ t.rx.len = 0 ∧ t.rxState = s.rxState ∧ t.cfg = s.cfg

/-! ## The dispatcher -/

/-- `deliver(p)` (R95): the tests in order, length, equality of the two header bytes, then the tag; one arm each, and of
a drop the reason. -/
def Obligations.DispatchOrder : Prop :=
  ∀ (s : Machine.State) (p : Packet), s.cfg.Ok → s.rx.bytes = some p → p ≠ [] →
    ∃ u, u = { s with rx := u.rx } ∧ u.rx.len = 0 ∧
      (p.length < 2 → exec .endOfFrame s = exec (.drop p) u ∧ dropReason p = .short) ∧
      ∀ a b x, p = a :: b :: x →
        (a ≠ b → exec .endOfFrame s = exec (.drop p) u ∧ dropReason p = .mismatch) ∧
        (a = b → a = s.cfg.T_TERMSPEC_QUERY → exec .endOfFrame s = exec (.termspecQuery x) u) ∧
        (a = b → a = s.cfg.T_KEY_POLL → exec .endOfFrame s = exec (.keyPoll x) u) ∧
        (a = b → a = s.cfg.T_DISPLAY_WRITE → exec .endOfFrame s = exec (.displayWrite x) u) ∧
        (a = b → a = 0x03#8 → exec .endOfFrame s = exec (.interrupt x) u) ∧
        (a = b → a ∉ [s.cfg.T_TERMSPEC_QUERY, s.cfg.T_KEY_POLL, s.cfg.T_DISPLAY_WRITE, 0x03#8] →
          exec .endOfFrame s = exec (.drop p) u ∧ dropReason p = .unknown)

/-- TERMSPEC_QUERY (R98): the reply is the header and `TERMSPEC_ID`, framed, whatever the extra bytes and the state; no
state is written; where the transport fails after `k` bytes, those `k` went out and the block halts with XPORT. -/
def Obligations.TermspecQueryReplies : Prop :=
  ∀ (extra : List Byte) (s : Machine.State) (f : List Byte),
    f = frame s.cfg ([s.cfg.T_TERMSPEC_QUERY, s.cfg.T_TERMSPEC_QUERY] ++ s.cfg.TERMSPEC_ID) →
    (s.RoomFor f.length → ∃ t, exec (.termspecQuery extra) s = .next t ∧
      t = { s with trace := t.trace, txRoom := t.txRoom } ∧ t.trace = s.trace ++ f.map .tx) ∧
    (∀ k, s.txRoom = some k → k < f.length → ∃ t, exec (.termspecQuery extra) s = .next t ∧
      t = { s with trace := t.trace, txRoom := t.txRoom, run := .halted, haltCause := .xport } ∧
      t.txOut = s.txOut ++ f.take k ∧ t.dispOut = s.dispOut ∧ t.raisedOut = s.raisedOut ++ [.halt .xport])

/-- KEY_POLL (R99): the keys held go out in order under the header, and `kb_len` becomes 0 when the reply was sent; a
reply cut by the transport leaves the FIFO as it was and halts. No flag is written, and the reply never exceeds
`MAX_PACKET`. -/
def Obligations.KeyPollSendsKeysAndDrains : Prop :=
  ∀ (extra keys : List Byte) (s : Machine.State) (f : List Byte), s.kb.bytes = some keys →
    f = frame s.cfg ([s.cfg.T_KEY_POLL, s.cfg.T_KEY_POLL] ++ keys) →
    (s.Inv → ([s.cfg.T_KEY_POLL, s.cfg.T_KEY_POLL] ++ keys).length ≤ s.cfg.MAX_PACKET) ∧
    (s.RoomFor f.length → ∃ t, exec (.keyPoll extra) s = .next t ∧
      t = { s with kb := t.kb, trace := t.trace, txRoom := t.txRoom } ∧ t.kb.len = 0 ∧
      t.trace = s.trace ++ f.map .tx) ∧
    (∀ k, s.txRoom = some k → k < f.length → ∃ t, exec (.keyPoll extra) s = .next t ∧
      t = { s with trace := t.trace, txRoom := t.txRoom, run := .halted, haltCause := .xport } ∧
      t.txOut = s.txOut ++ f.take k ∧ t.dispOut = s.dispOut ∧ t.raisedOut = s.raisedOut ++ [.halt .xport])

/-- DISPLAY_WRITE (R100, R44): every payload byte goes to the display, in order, uninterpreted, all of them before the
first byte of the one empty acknowledgment; no state is written. An acknowledgment that fails after `k` bytes halts with
XPORT; the same order holds there, and the display bytes are written all the same. -/
def Obligations.DisplayWriteThenAcknowledges : Prop :=
  ∀ (payload : List Byte) (s : Machine.State) (f : List Byte),
    f = frame s.cfg [s.cfg.T_DISPLAY_WRITE, s.cfg.T_DISPLAY_WRITE] →
    (s.RoomFor f.length → ∃ t, exec (.displayWrite payload) s = .next t ∧
      t = { s with trace := t.trace, txRoom := t.txRoom } ∧
      t.trace = s.trace ++ payload.map .disp ++ f.map .tx) ∧
    (∀ k, s.txRoom = some k → k < f.length → ∃ t, exec (.displayWrite payload) s = .next t ∧
      t = { s with trace := t.trace, txRoom := t.txRoom, run := .halted, haltCause := .xport } ∧
      t.trace = s.trace ++ payload.map .disp ++ (f.take k).map .tx ++ [.raised (.halt .xport)])

/-- INTERRUPT (R101): `run` and `halt_cause` are written and everything else keeps its value; not one byte is emitted by
it, nor by any later event before `Reset`: however many there are, they leave the block as the packet left it. -/
def Obligations.InterruptHaltsSilently : Prop :=
  ∀ (extra : List Byte) (s : Machine.State), s.cfg.Ok → ∃ t, exec (.interrupt extra) s = .next t ∧
    t = { s with run := .halted, haltCause := .interrupt, trace := t.trace } ∧
    t.txOut = s.txOut ∧ t.dispOut = s.dispOut ∧ t.raisedOut = s.raisedOut ++ [.halt .interrupt] ∧
    ∀ es : List Event, .reset ∉ es →
      Host.Core.run core es.length { t with inputs := es } = .next { t with inputs := [] }

/-- DROP (R102): `ProtocolDrop(reason)` is raised, `f_drop` is set, and nothing else; the reason is SHORT, MISMATCH or
UNKNOWN in the order of the tests. -/
def Obligations.DropSetsItsFlagOnly : Prop :=
  ∀ (p : Packet) (s : Machine.State), ∃ t reason, exec (.drop p) s = .next t ∧
    t = { s with fDrop := true, trace := t.trace } ∧ t.txOut = s.txOut ∧ t.dispOut = s.dispOut ∧
    t.raisedOut = s.raisedOut ++ [.protocolDrop reason] ∧
    (p.length < 2 → reason = .short) ∧
    ∀ a b x, p = a :: b :: x → (a ≠ b → reason = .mismatch) ∧ (a = b → reason = .unknown)

/-- The PKT_REPLY rows: sending a reply puts exactly its frame on `tx_out` and writes no state; where the transport fails
after `k` bytes, exactly those went out and the block halts with XPORT (R52, R86, R146). -/
def Obligations.ReplyRowsTransmitTheirFrame : Prop :=
  ∀ (i : Instr) (s : Machine.State) (f : List Byte),
    ((∃ ident, i = .termspecReply ident) ∨ (∃ keys, i = .keysReply keys) ∨ i = .ackReply) →
    f = frame s.cfg (encode s.cfg i) →
    (s.RoomFor f.length → ∃ t, exec i s = .next t ∧
      t = { s with trace := t.trace, txRoom := t.txRoom } ∧ t.trace = s.trace ++ f.map .tx) ∧
    (∀ k, s.txRoom = some k → k < f.length → ∃ t, exec i s = .next t ∧
      t = { s with trace := t.trace, txRoom := t.txRoom, run := .halted, haltCause := .xport } ∧
      t.txOut = s.txOut ++ f.take k ∧ t.dispOut = s.dispOut ∧ t.raisedOut = s.raisedOut ++ [.halt .xport])

/-- The 16-bit header value (R48): for a packet of at least two bytes, an opcode row is the instruction exactly when the
header is its tag times 256 plus its tag, and the default row when it is none of the four. -/
def Obligations.HeaderValueSelectsTheRow : Prop :=
  ∀ (c : Config) (a b : Byte) (x : List Byte), c.Ok →
    (header a b).toNat = a.toNat * 256 + b.toNat ∧
    (decodePacket c (a :: b :: x) = .ok (.termspecQuery x) ↔
      header a b = header c.T_TERMSPEC_QUERY c.T_TERMSPEC_QUERY) ∧
    (decodePacket c (a :: b :: x) = .ok (.keyPoll x) ↔ header a b = header c.T_KEY_POLL c.T_KEY_POLL) ∧
    (decodePacket c (a :: b :: x) = .ok (.displayWrite x) ↔
      header a b = header c.T_DISPLAY_WRITE c.T_DISPLAY_WRITE) ∧
    (decodePacket c (a :: b :: x) = .ok (.interrupt x) ↔ header a b = 0x0303#16) ∧
    (decodePacket c (a :: b :: x) = .ok (.drop (a :: b :: x)) ↔
      header a b ∉ [header c.T_TERMSPEC_QUERY c.T_TERMSPEC_QUERY, header c.T_KEY_POLL c.T_KEY_POLL,
        header c.T_DISPLAY_WRITE c.T_DISPLAY_WRITE, 0x0303#16])

/-! ## The other events -/

/-- `Key(k)` (R116, R118, R119): with room the key is appended at `kb_len` and no other cell changes; when full it is
lost and `f_kb_ovf` is set; when halted nothing happens. -/
def Obligations.KeyAppendsRefusesOrIsIgnored : Prop :=
  ∀ (s : Machine.State) (k : Byte) (rest : List Event), s.cfg.Ok → s.inputs = .key k :: rest →
    (s.run = .running → s.kb.len < s.cfg.KB_CAP → ∃ t, step s = .next t ∧
      t = { s with kb := t.kb, inputs := rest } ∧ t.kb.len = s.kb.len + 1 ∧ t.kb.read s.kb.len = some k ∧
      ∀ a, a ≠ s.kb.len → t.kb.read a = s.kb.read a) ∧
    (s.run = .running → s.kb.len = s.cfg.KB_CAP → ∃ t, step s = .next t ∧
      t = { s with fKbOvf := true, trace := t.trace, inputs := rest } ∧
      t.txOut = s.txOut ∧ t.dispOut = s.dispOut ∧ t.raisedOut = s.raisedOut ++ [.kbOverflow k]) ∧
    (s.run = .halted → step s = .next { s with inputs := rest })

/-- `XportFail` (R145): a running block halts with XPORT and nothing else changes, also in the middle of a frame; when
halted it has no effect and the first cause is kept. -/
def Obligations.XportFailHalts : Prop :=
  ∀ (s : Machine.State) (rest : List Event), s.cfg.Ok → s.inputs = .xportFail :: rest →
    (s.run = .running → ∃ t, step s = .next t ∧
      t = { s with run := .halted, haltCause := .xport, trace := t.trace, inputs := rest } ∧
      t.txOut = s.txOut ∧ t.dispOut = s.dispOut ∧ t.raisedOut = s.raisedOut ++ [.halt .xport]) ∧
    (s.run = .halted → step s = .next { s with inputs := rest })

/-- A halted block leaves its state and both streams unchanged under every event but `Reset` (R18, R147). The event
leaves the schedule (log entry 7). -/
def Obligations.HaltedIgnoresAllButReset : Prop :=
  ∀ (s : Machine.State) (e : Event) (rest : List Event), s.cfg.Ok → s.run = .halted → s.inputs = e :: rest →
    e ≠ .reset → step s = .next { s with inputs := rest }

/-! ## Frames -/

/-- What the symbol rows other than end of frame leave alone: all but the receive buffer, `rx_state` and the flag of the
error they raise; cell by cell for the arms that store or hold (spec/40_framing_decoder.md). That a storing arm discards
the frame at a length above `RX_CAP`, where no run goes and R70 read literally would write, is the model's reading alone
(log entry 10). -/
def Obligations.SymbolRowsFrame : Prop :=
  ∀ (i : Instr) (s t : Machine.State) (m : RxState) (len : Nat), i.inLayer (.symbol m len) = true → i ≠ .endOfFrame →
    exec i s = .next t →
    t.cfg = s.cfg ∧ t.kb.len = s.kb.len ∧ (∀ a, t.kb.read a = s.kb.read a) ∧ t.run = s.run ∧
    t.haltCause = s.haltCause ∧ t.fKbOvf = s.fKbOvf ∧ t.fDrop = s.fDrop ∧ t.inputs = s.inputs ∧
    t.txRoom = s.txRoom ∧ t.txOut = s.txOut ∧ t.dispOut = s.dispOut ∧
    (i ≠ .endAfterEsc → (∀ b, i ≠ .badEscape b) → t.fEscErr = s.fEscErr) ∧
    ((i = .endEmptyFrame ∨ i = .esc ∨ i = .endResync ∨ ∃ b, i = .discarded b) →
      t.fRxOvf = s.fRxOvf ∧ t.rx.len = s.rx.len ∧ ∀ a, t.rx.read a = s.rx.read a) ∧
    ((i = .endAfterEsc ∨ ∃ b, i = .badEscape b) → t.fRxOvf = s.fRxOvf ∧ ∀ a, t.rx.read a = none) ∧
    ((i = .escEnd ∨ i = .escEsc ∨ ∃ b, i = .literal b) →
      (s.rx.len < s.cfg.RX_CAP → t.fRxOvf = s.fRxOvf ∧ ∀ a, a ≠ s.rx.len → t.rx.read a = s.rx.read a) ∧
      (s.cfg.RX_CAP ≤ s.rx.len → ∀ a, t.rx.read a = none))

/-- What the packet rows leave alone: the receive side, the configuration, the schedule and every flag but `f_drop`;
the keystroke FIFO, cell by cell, but for KEY_POLL; `run` but for INTERRUPT and a failing reply; the display but for
DISPLAY_WRITE (R103). -/
def Obligations.PacketRowsFrame : Prop :=
  ∀ (i : Instr) (s t : Machine.State), (i.inLayer .request = true ∨ i.inLayer .reply = true) → exec i s = .next t →
    t.cfg = s.cfg ∧ t.rx.len = s.rx.len ∧ (∀ a, t.rx.read a = s.rx.read a) ∧ t.rxState = s.rxState ∧
    t.inputs = s.inputs ∧ t.fEscErr = s.fEscErr ∧ t.fRxOvf = s.fRxOvf ∧ t.fKbOvf = s.fKbOvf ∧
    ((∀ p, i ≠ .drop p) → t.fDrop = s.fDrop) ∧
    ((∀ x, i ≠ .keyPoll x) → t.kb.len = s.kb.len ∧ ∀ a, t.kb.read a = s.kb.read a) ∧
    (∀ x, i = .keyPoll x → t.run ≠ s.run → t.kb.len = s.kb.len ∧ ∀ a, t.kb.read a = s.kb.read a) ∧
    ((∃ p, i = .drop p) → t.run = s.run ∧ t.haltCause = s.haltCause ∧ t.txRoom = s.txRoom) ∧
    ((∀ x, i ≠ .interrupt x) →
      (t.run = s.run ∧ t.haltCause = s.haltCause) ∨ (t.run = .halted ∧ t.haltCause = .xport)) ∧
    ((∀ x, i ≠ .displayWrite x) → t.dispOut = s.dispOut) ∧
    ((∃ p, i = .drop p) ∨ (∃ x, i = .interrupt x) → t.txOut = s.txOut)

/-! ## Encoding -/

/-- Decoding an encoded well-formed instruction gives it back: every row of the table, in every layer and context it
belongs to, with every operand the encoding admits. -/
def Obligations.DecodeOfEncode : Prop :=
  ∀ (c : Config) (i : Instr) (l : Layer), c.Ok → i.wellFormed c = true → i.inLayer l = true →
    decode c l (encode c i) = .ok i

/-- The other direction: what the decoder reads belongs to the layer, its encoding is the bytes read (of a wire symbol,
the one byte), and a received packet that fits the buffer, or a wire byte, decodes to a well-formed instruction. -/
def Obligations.EncodeOfDecode : Prop :=
  ∀ (c : Config) (i : Instr) (l : Layer) (bytes : List Byte), c.Ok → decode c l bytes = .ok i →
    i.inLayer l = true ∧
    (∀ m len, l = .symbol m len → encode c i = bytes.take 1 ∧ i.wellFormed c = true) ∧
    (l = .request → encode c i = bytes ∧ (bytes.length ≤ c.RX_CAP → i.wellFormed c = true)) ∧
    (l = .reply → encode c i = bytes)

/-- The length law of the encoder (R88): `n + s + 1`, `s` the bytes that need escaping; between `n + 1` and `2n + 1`. -/
def Obligations.FrameLengthLaw : Prop :=
  ∀ (c : Config) (p : Packet),
    (frame c p).length = p.length + p.countP (fun b => decide (b = c.END ∨ b = c.ESC)) + 1 ∧
    p.length + 1 ≤ (frame c p).length ∧ (frame c p).length ≤ 2 * p.length + 1

/-- What the encoder never emits (R91): inside a frame `END` occurs only as the closing boundary, `ESC` only as the first
byte of an escape pair; so the wire stream, cut at every `END`, gives exactly the frames sent, and the decoder gives the
packet back. -/
def Obligations.FrameHoldsNoInnerBoundary : Prop :=
  ∀ (c : Config) (p : Packet), c.Ok →
    ∃ body, frame c p = body ++ [c.END] ∧ c.END ∉ body ∧
      (∀ before after, body = before ++ c.ESC :: after →
        ∃ d rest, after = d :: rest ∧ (d = c.ESC_END ∨ d = c.ESC_ESC)) ∧
      (∀ ps : List Packet, segments c [] (ps.flatMap (frame c)) = ps.map fun q => q.flatMap (escByte c)) ∧
      (1 ≤ p.length → p.length ≤ c.RX_CAP → decodeStream c (frame c p) = [p])

/-- Every reply fits the agreed maximum packet size (R89): the encoder need not test it. -/
def Obligations.RepliesFitMaxPacket : Prop :=
  ∀ (s : Machine.State) (keys : List Byte), s.Inv → s.kb.bytes = some keys →
    ([s.cfg.T_TERMSPEC_QUERY, s.cfg.T_TERMSPEC_QUERY] ++ s.cfg.TERMSPEC_ID).length ≤ s.cfg.MAX_PACKET ∧
    ([s.cfg.T_KEY_POLL, s.cfg.T_KEY_POLL] ++ keys).length = 2 + s.kb.len ∧
    2 + s.kb.len ≤ 2 + s.cfg.KB_CAP ∧ 2 + s.cfg.KB_CAP ≤ s.cfg.MAX_PACKET ∧
    [s.cfg.T_DISPLAY_WRITE, s.cfg.T_DISPLAY_WRITE].length ≤ s.cfg.MAX_PACKET

/-! ## Streams -/

/-- The decoder over a stream, byte by byte, is the stream split at every `END`, each segment judged alone (R79). -/
def Obligations.StreamDecoderIsSegmentwise : Prop :=
  ∀ (c : Config) (s : List Byte), c.Ok → decodeStream c s = decodeSegments c s

/-- Round trip (R80): the frames of packets of length 1 to `RX_CAP`, one after the other, decode to those packets; the
frame of the empty packet decodes to none. -/
def Obligations.FramesRoundTrip : Prop :=
  ∀ (c : Config) (ps : List Packet), c.Ok → (∀ p ∈ ps, 1 ≤ p.length ∧ p.length ≤ c.RX_CAP) →
    decodeStream c (ps.flatMap (frame c)) = ps ∧ decodeStream c (frame c []) = []

/-- Overflow resynchronisation (R81): a damaged run closed by a boundary costs itself only; without the boundary it takes
the next frame with it. -/
def Obligations.DamagedRunResynchronises : Prop :=
  ∀ (c : Config) (j : List Byte) (p : Packet), c.Ok → c.END ∉ j → (OverLong c j ∨ HasInvalidEscape c j) →
    1 ≤ p.length → p.length ≤ c.RX_CAP →
    decodeStream c (j ++ [c.END] ++ frame c p) = [p] ∧ decodeStream c (j ++ frame c p) = []

/-- The machine refines the stream decoder (R65): one received byte moves `rx_state` and the bytes held as the decoder
alone says. Without a packet nothing else moves but the two framing flags, the record of abnormal events, the draw and the
event taken; with a packet the same event runs the packet's instruction. -/
def Obligations.MachineRefinesDecoder : Prop :=
  ∀ (s : Machine.State) (held : List Byte) (b : Byte) (draw : Option Nat) (rest : List Event)
    (d : RxDecoder) (op : Option Packet),
    s.Inv → s.run = .running → s.inputs = .rxByte b draw :: rest → s.rx.bytes = some held →
    RxDecoder.feed s.cfg ⟨s.rxState, held⟩ b = (d, op) →
    ∃ t, step s = .next t ∧ t.rxState = d.mode ∧ t.rx.bytes = some d.held ∧
      (op = none →
        t = { s with
          rx := t.rx, rxState := t.rxState, fEscErr := t.fEscErr, fRxOvf := t.fRxOvf, trace := t.trace
          txRoom := draw, inputs := rest } ∧
        t.txOut = s.txOut ∧ t.dispOut = s.dispOut) ∧
      (∀ p, op = some p → ∃ i u, decode s.cfg .request p = .ok i ∧
        u = { s with rx := u.rx, inputs := rest, txRoom := draw } ∧ u.rx.len = 0 ∧ exec i u = .next t)

/-- A frame reaches its opcode: from a frame boundary, the bytes of `frame(p)` run, whatever the packet, to exactly the
state its instruction gives there (R45, R46, R97). -/
def Obligations.FrameRunsItsPacket : Prop :=
  ∀ (s : Machine.State) (p : Packet) (draw : Option Nat) (rest : List Event),
    s.Inv → s.run = .running → s.rxState = .normal → s.rx.len = 0 → 1 ≤ p.length → p.length ≤ s.cfg.RX_CAP →
    s.inputs = frameEvents s.cfg p draw ++ rest →
    ∃ i, decode s.cfg .request p = .ok i ∧
      Host.Core.run core (frame s.cfg p).length s = exec i { s with inputs := rest, txRoom := draw }

/-! ## The keystroke FIFO -/

/-- The FIFO keeps exactly the first `KB_CAP` keys since the last drain, in order, and says so when it lost one (R120). -/
def Obligations.FifoKeepsFirstKeys : Prop :=
  ∀ (s : Machine.State) (held ks : List Byte) (rest : List Event), s.Inv → s.run = .running →
    s.kb.bytes = some held → s.inputs = ks.map .key ++ rest →
    ∃ t, Host.Core.run core ks.length s = .next t ∧
      t.kb.bytes = some ((held ++ ks).take s.cfg.KB_CAP) ∧
      t.fKbOvf = (s.fKbOvf || decide (s.cfg.KB_CAP < (held ++ ks).length)) ∧
      t.rx = s.rx ∧ t.rxState = s.rxState ∧ t.run = .running ∧ t.txOut = s.txOut ∧ t.dispOut = s.dispOut ∧
      t.inputs = rest

/-- Nothing but a KEY_POLL whose whole reply was sent, or `Reset`, shortens the FIFO (R117): every other step keeps the
keys held, in order, and adds at most one. -/
def Obligations.OnlyPollOrResetShortensFifo : Prop :=
  ∀ (s t : Machine.State) (held : List Byte), s.Inv → s.kb.bytes = some held → step s = .next t →
    (∃ new, t.kb.bytes = some (held ++ new) ∧ new.length ≤ 1) ∨
    (∃ rest, s.inputs = .reset :: rest) ∨
    (∃ x draw rest, s.Closes ([s.cfg.T_KEY_POLL, s.cfg.T_KEY_POLL] ++ x) draw rest ∧ t.kb.len = 0 ∧
      t.txOut = s.txOut ++ frame s.cfg ([s.cfg.T_KEY_POLL, s.cfg.T_KEY_POLL] ++ held))

/-! ## The whole machine -/

/-- Every step keeps the invariant, from every state that meets it: capacities, filled buffers, RX_DISCARD holds nothing,
RUNNING exactly when the cause is NONE (R10, R17, R18, R19). -/
def Obligations.StepKeepsInvariant : Prop :=
  ∀ s t : Machine.State, s.Inv → step s = .next t → t.Inv

/-- A state that meets the invariant never stops: no fault and no refusal within any number of steps. -/
def Obligations.InvariantStatesNeverStop : Prop :=
  ∀ (s : Machine.State) (n : Nat), s.Inv → s.SafeFor n

/-- Quiescence (R133): with no event nothing happens, and a byte reaches `tx_out` only in the event that delivers a
well-formed request, as part of the reply to it. (`Reset` starts the stream again.) -/
def Obligations.NoUnsolicitedOutput : Prop :=
  (∀ s : Machine.State, s.cfg.Ok → s.inputs = [] → step s = .next s) ∧
  ∀ s t : Machine.State, s.Inv → step s = .next t → (∀ rest, s.inputs ≠ .reset :: rest) → t.txOut ≠ s.txOut →
    ∃ p draw rest f k, s.Closes p draw rest ∧ isRequest s.cfg p = true ∧ s.ReplyTo p f ∧
      t.txOut = s.txOut ++ f.take k

/-- Every byte the block sends belongs to one of the three replies, sent from its first byte on and cut only where the
block halts with XPORT (R52, R146). -/
def Obligations.RepliesAreOneOfThree : Prop :=
  ∀ s t : Machine.State, s.Inv → step s = .next t → (∀ rest, s.inputs ≠ .reset :: rest) →
    t.txOut = s.txOut ∨
    ∃ f k, s.ReplyFrame f ∧ t.txOut = s.txOut ++ f.take k ∧
      (k < f.length → t.run = .halted ∧ t.haltCause = .xport)

/-- The block halts in exactly two ways (R131): an INTERRUPT packet, in every state that can receive one, and a transport
error, outside a reply or within one. Both do halt it, and nothing else does. -/
def Obligations.HaltsInExactlyTwoWays : Prop :=
  (∀ (s : Machine.State) (x : List Byte) (draw : Option Nat) (rest : List Event), s.Inv →
    s.Closes ([0x03#8, 0x03#8] ++ x) draw rest →
    ∃ t, step s = .next t ∧ t.run = .halted ∧ t.haltCause = .interrupt ∧ t.txOut = s.txOut) ∧
  (∀ (s : Machine.State) (rest : List Event), s.Inv → s.run = .running → s.inputs = .xportFail :: rest →
    ∃ t, step s = .next t ∧ t.run = .halted ∧ t.haltCause = .xport ∧ t.txOut = s.txOut) ∧
  (∀ (s : Machine.State) (p : Packet) (f : List Byte) (k : Nat) (rest : List Event), s.Inv →
    s.Closes p (some k) rest → s.ReplyTo p f → k < f.length →
    ∃ t, step s = .next t ∧ t.run = .halted ∧ t.haltCause = .xport ∧ t.txOut = s.txOut ++ f.take k) ∧
  ∀ s t : Machine.State, s.Inv → s.run = .running → step s = .next t → t.run = .halted →
    (∃ x draw rest, s.Closes ([0x03#8, 0x03#8] ++ x) draw rest) ∨
    (∃ rest, s.inputs = .xportFail :: rest) ∨
    (∃ p f k rest, s.Closes p (some k) rest ∧ s.ReplyTo p f ∧ k < f.length)

/-- Every `END` a running block receives, in every decoder state, leaves it in RX_NORMAL with `rx_len` 0 (R78). -/
def Obligations.EveryBoundaryEndsTheFrame : Prop :=
  ∀ (s : Machine.State) (draw : Option Nat) (rest : List Event), s.Inv → s.run = .running →
    s.inputs = .rxByte s.cfg.END draw :: rest →
    ∃ t, step s = .next t ∧ t.rxState = .normal ∧ t.rx.len = 0

/-- No step changes the configuration (R10, R22, R171). -/
def Obligations.ConfigurationNeverChanges : Prop :=
  ∀ s t : Machine.State, step s = .next t → t.cfg = s.cfg

/-- The four flags (R21, R149): each is set in a step exactly when the step raises its event, cleared only by `Reset`,
and one event raises at most one abnormal event. -/
def Obligations.FlagsAreStickyAndExact : Prop :=
  ∀ s t : Machine.State, step s = .next t → (∀ rest, s.inputs ≠ .reset :: rest) →
    ∃ new, t.raisedOut = s.raisedOut ++ new ∧ new.length ≤ 1 ∧
      t.fEscErr = (s.fEscErr || decide (Abnormal.framingEsc ∈ new)) ∧
      t.fRxOvf = (s.fRxOvf || decide (Abnormal.framingOvf ∈ new)) ∧
      (t.fKbOvf = true ↔ s.fKbOvf = true ∨ ∃ k, Abnormal.kbOverflow k ∈ new) ∧
      (t.fDrop = true ↔ s.fDrop = true ∨ ∃ reason, Abnormal.protocolDrop reason ∈ new)

/-- No rule reads the flags (R21): two states that agree but for them take the same step, but for them. -/
def Obligations.FlagsAreNeverRead : Prop :=
  ∀ s u : Machine.State, s.forgetFlags = u.forgetFlags →
    mapNext State.forgetFlags (step s) = mapNext State.forgetFlags (step u)

/-- The block cannot read what it has sent (R20): outside `Reset`, what a step adds to the record of outputs does not
depend on what stands there, and nothing is ever taken back. -/
def Obligations.OutputsAreNeverRead : Prop :=
  ∀ (s t : Machine.State) (before : List Obs), (∀ rest, s.inputs ≠ .reset :: rest) → step s.forgetTrace = .next t →
    step { s with trace := before } = .next { t with trace := before ++ t.trace }
end

