-- ==== Sys2Proof/Laws/Memory.lean ====
section
/-! SUPPORT. The laws of the two storage spaces: a read after a write, the canonical form kept by every operation, and
what a buffer holds. -/

namespace Sys2Proof.Machine

namespace Memory

@[simp] theorem read_write_same (a : Nat) (v : Byte) (m : Memory) : read a (write a v m) = some v := by
  induction m with
  | nil => simp [write, read]
  | cons c m ih =>
    obtain ⟨b, w⟩ := c
    simp only [write]
    split_ifs with h1 h2
    · simp [read]
    · simp [read]
    · simp [read, ih, Ne.symm h2]

theorem read_write_other {a b : Nat} (h : b ≠ a) (v : Byte) (m : Memory) :
    read b (write a v m) = read b m := by
  induction m with
  | nil => simp [write, read, h.symm]
  | cons c m ih =>
    obtain ⟨k, w⟩ := c
    simp only [write]
    split_ifs with h1 h2
    · simp [read, h.symm]
    · subst h2; simp [read, h.symm]
    · simp [read, ih]

/-- The canonical form as a list of rising indices. -/
theorem wf_iff_pairwise (m : Memory) : wf m = true ↔ (m.map Prod.fst).Pairwise (· < ·) := by
  induction m with
  | nil => simp [wf]
  | cons c m ih =>
    obtain ⟨a, x⟩ := c
    cases m with
    | nil => simp [wf]
    | cons d m =>
      obtain ⟨b, y⟩ := d
      simp only [wf, Bool.and_eq_true, decide_eq_true_eq, ih, List.map_cons, List.pairwise_cons, List.mem_cons]
      constructor
      · rintro ⟨hab, hb, hm⟩
        exact ⟨fun k hk => hk.elim (fun e => e ▸ hab) fun hk => lt_trans hab (hb k hk), hb, hm⟩
      · rintro ⟨ha, hb, hm⟩
        exact ⟨ha b (.inl rfl), hb, hm⟩

theorem mem_keys_write {k a : Nat} {v : Byte} {m : Memory} (h : k ∈ (write a v m).map Prod.fst) :
    k = a ∨ k ∈ m.map Prod.fst := by
  induction m with
  | nil => simpa [write] using h
  | cons c m ih =>
    obtain ⟨b, w⟩ := c
    simp only [write] at h
    split_ifs at h with h1 h2
    · simpa using h
    · subst h2; simp only [List.map_cons, List.mem_cons] at h ⊢; tauto
    · simp only [List.map_cons, List.mem_cons] at h ⊢
      rcases h with h | h
      · exact .inr (.inl h)
      · exact (ih h).imp_right .inr

/-- A write keeps the canonical form. -/
theorem wf_write (a : Nat) (v : Byte) {m : Memory} (h : wf m = true) : wf (write a v m) = true := by
  rw [wf_iff_pairwise] at h ⊢
  induction m with
  | nil => simp [write]
  | cons c m ih =>
    obtain ⟨b, w⟩ := c
    simp only [List.map_cons, List.pairwise_cons] at h
    simp only [write]
    split_ifs with h1 h2
    · simp only [List.map_cons, List.pairwise_cons, List.mem_cons]
      exact ⟨fun k hk => hk.elim (fun e => e ▸ h1) fun hk => lt_trans h1 (h.1 k hk), h⟩
    · subst h2; simpa only [List.map_cons, List.pairwise_cons] using h
    · simp only [List.map_cons, List.pairwise_cons]
      refine ⟨fun k hk => ?_, ih h.2⟩
      rcases mem_keys_write hk with rfl | hk
      · omega
      · exact h.1 k hk

/-- Reading a range sees no write at or above its end. -/
theorem readUpTo_write_above {n a : Nat} (h : n ≤ a) (v : Byte) (m : Memory) :
    readUpTo (write a v m) n = readUpTo m n := by
  induction n with
  | zero => rfl
  | succ n ih => simp only [readUpTo, ih (by omega), read_write_other (show n ≠ a by omega)]

theorem readUpTo_length {m : Memory} {n : Nat} {bs : List Byte} (h : readUpTo m n = some bs) : bs.length = n := by
  induction n generalizing bs with
  | zero => simp only [readUpTo, Option.some.injEq] at h; simp [← h]
  | succ n ih =>
    simp only [readUpTo] at h
    split at h
    · rename_i bs' b h1 _
      simp only [Option.some.injEq] at h
      simp [← h, ih h1]
    · cases h

end Memory

namespace Buffer

@[simp] theorem empty_len : empty.len = 0 := rfl
@[simp] theorem empty_cells : empty.cells = [] := rfl
@[simp] theorem empty_bytes : empty.bytes = some [] := rfl
@[simp] theorem empty_read (a : Nat) : empty.read a = none := by simp [read]
@[simp] theorem push_len (v : Byte) (b : Buffer) : (b.push v).len = b.len + 1 := rfl
@[simp] theorem push_cells (v : Byte) (b : Buffer) : (b.push v).cells = b.cells.write b.len v := rfl

/-- The contents after a push: the new byte last. -/
theorem push_bytes {b : Buffer} {bs : List Byte} (h : b.bytes = some bs) (v : Byte) :
    (b.push v).bytes = some (bs ++ [v]) := by
  unfold bytes at h ⊢
  simp only [push_len, push_cells, Memory.readUpTo, Memory.readUpTo_write_above le_rfl, h, Memory.read_write_same]

theorem bytes_length {b : Buffer} {bs : List Byte} (h : b.bytes = some bs) : bs.length = b.len :=
  Memory.readUpTo_length h

@[simp] theorem push_read_same (v : Byte) (b : Buffer) : (b.push v).read b.len = some v := by
  simp [read]

/-- A push changes what one cell reads as, and no other. -/
theorem push_read_other {a : Nat} {b : Buffer} (h : a ≠ b.len) (v : Byte) : (b.push v).read a = b.read a := by
  simp only [read, push_len, push_cells, Memory.read_write_other h]
  split_ifs with h1 h2
  · rfl
  · omega
  · omega
  · rfl

theorem push_wf {b : Buffer} (h : b.cells.wf = true) (v : Byte) : (b.push v).cells.wf = true :=
  Memory.wf_write _ _ h

theorem empty_filled : empty.Filled := rfl

theorem write_end_of_range {n k : Nat} {m : Memory} (h : m.map Prod.fst = List.range' k n) (v : Byte) :
    m.write (k + n) v = m ++ [(k + n, v)] := by
  induction m generalizing k n with
  | nil => cases n <;> simp_all [Memory.write, List.range']
  | cons c m ih =>
    obtain ⟨a, w⟩ := c
    cases n with
    | zero => simp [List.range'] at h
    | succ n =>
      simp only [List.map_cons, List.range', List.cons.injEq] at h
      obtain ⟨rfl, h⟩ := h
      have h2 := ih h
      have e : a + 1 + n = a + (n + 1) := by omega
      rw [e] at h2
      simp only [Memory.write, h2]
      rw [if_neg (by omega), if_neg (by omega)]
      rfl

/-- A filled buffer stays filled when a byte is pushed; the byte is its last cell. -/
theorem Filled.push_cells_eq {b : Buffer} (h : b.Filled) (v : Byte) :
    (b.push v).cells = b.cells ++ [(b.len, v)] := by
  have h2 : b.cells.map Prod.fst = List.range' 0 b.len := by rw [h, List.range_eq_range']
  simpa using write_end_of_range h2 v

theorem Filled.push {b : Buffer} (h : b.Filled) (v : Byte) : (b.push v).Filled := by
  have h2 : b.cells.map Prod.fst = List.range b.len := h
  rw [Filled, Filled.push_cells_eq h]
  simp [h2, List.range_succ]

theorem Filled.wf {b : Buffer} (h : b.Filled) : b.cells.wf = true := by
  have h2 : b.cells.map Prod.fst = List.range b.len := h
  rw [Memory.wf_iff_pairwise, h2]
  exact List.pairwise_lt_range

theorem Filled.eq_empty {b : Buffer} (h : b.Filled) (hl : b.len = 0) : b = empty := by
  obtain ⟨cells, len⟩ := b
  simp only at hl
  subst hl
  simpa [Filled, empty] using h

theorem read_filled {k n i : Nat} {m : Memory} (h : m.map Prod.fst = List.range' k n) (hi : i < n) :
    ∃ v, Memory.read (k + i) m = some v := by
  induction m generalizing k n i with
  | nil => cases n <;> simp_all [List.range']
  | cons c m ih =>
    obtain ⟨a, w⟩ := c
    cases n with
    | zero => omega
    | succ n =>
      simp only [List.map_cons, List.range', List.cons.injEq] at h
      obtain ⟨rfl, h⟩ := h
      cases i with
      | zero => exact ⟨w, by simp [Memory.read]⟩
      | succ i =>
        obtain ⟨v, hv⟩ := ih h (i := i) (by omega)
        refine ⟨v, ?_⟩
        have e : a + 1 + i = a + (i + 1) := by omega
        rw [e] at hv
        simpa [Memory.read, show a ≠ a + (i + 1) by omega] using hv

/-- A filled buffer can be read whole: the fault of an unwritten cell is out of reach. -/
theorem Filled.bytes {b : Buffer} (h : b.Filled) : ∃ bs, b.bytes = some bs := by
  have h2 : b.cells.map Prod.fst = List.range' 0 b.len := by rw [h, List.range_eq_range']
  unfold Buffer.bytes
  have key : ∀ n, n ≤ b.len → ∃ bs, b.cells.readUpTo n = some bs := by
    intro n
    induction n with
    | zero => intro _; exact ⟨[], rfl⟩
    | succ n ih =>
      intro hn
      obtain ⟨bs, hbs⟩ := ih (by omega)
      obtain ⟨v, hv⟩ := read_filled h2 (i := n) (by omega)
      rw [Nat.zero_add] at hv
      exact ⟨bs ++ [v], by simp [Memory.readUpTo, hbs, hv]⟩
  exact key _ le_rfl

end Buffer

/-- The reset memories are in the canonical form. -/
theorem reset_memory_wf : State.reset.rx.cells.wf = true ∧ State.reset.kb.cells.wf = true := ⟨rfl, rfl⟩

end Sys2Proof.Machine
end

