-- ==== Sys2Proof/Laws/State.lean ====
section
/-! SUPPORT. One lemma per field per update of State, and per output stream per update, so that no later proof unfolds a
record update. -/

namespace Sys2Proof.Machine.State

variable (s : State)

/-! ### observe -/

@[simp] theorem observe_cfg (o : Obs) : (s.observe o).cfg = s.cfg := rfl
@[simp] theorem observe_rx (o : Obs) : (s.observe o).rx = s.rx := rfl
@[simp] theorem observe_rxState (o : Obs) : (s.observe o).rxState = s.rxState := rfl
@[simp] theorem observe_kb (o : Obs) : (s.observe o).kb = s.kb := rfl
@[simp] theorem observe_run (o : Obs) : (s.observe o).run = s.run := rfl
@[simp] theorem observe_haltCause (o : Obs) : (s.observe o).haltCause = s.haltCause := rfl
@[simp] theorem observe_fEscErr (o : Obs) : (s.observe o).fEscErr = s.fEscErr := rfl
@[simp] theorem observe_fRxOvf (o : Obs) : (s.observe o).fRxOvf = s.fRxOvf := rfl
@[simp] theorem observe_fKbOvf (o : Obs) : (s.observe o).fKbOvf = s.fKbOvf := rfl
@[simp] theorem observe_fDrop (o : Obs) : (s.observe o).fDrop = s.fDrop := rfl
@[simp] theorem observe_trace (o : Obs) : (s.observe o).trace = s.trace ++ [o] := rfl
@[simp] theorem observe_txRoom (o : Obs) : (s.observe o).txRoom = s.txRoom := rfl
@[simp] theorem observe_inputs (o : Obs) : (s.observe o).inputs = s.inputs := rfl

/-! ### setRxState -/

@[simp] theorem setRxState_cfg (m : RxState) : (s.setRxState m).cfg = s.cfg := rfl
@[simp] theorem setRxState_rx (m : RxState) : (s.setRxState m).rx = s.rx := rfl
@[simp] theorem setRxState_rxState (m : RxState) : (s.setRxState m).rxState = m := rfl
@[simp] theorem setRxState_kb (m : RxState) : (s.setRxState m).kb = s.kb := rfl
@[simp] theorem setRxState_run (m : RxState) : (s.setRxState m).run = s.run := rfl
@[simp] theorem setRxState_haltCause (m : RxState) : (s.setRxState m).haltCause = s.haltCause := rfl
@[simp] theorem setRxState_fEscErr (m : RxState) : (s.setRxState m).fEscErr = s.fEscErr := rfl
@[simp] theorem setRxState_fRxOvf (m : RxState) : (s.setRxState m).fRxOvf = s.fRxOvf := rfl
@[simp] theorem setRxState_fKbOvf (m : RxState) : (s.setRxState m).fKbOvf = s.fKbOvf := rfl
@[simp] theorem setRxState_fDrop (m : RxState) : (s.setRxState m).fDrop = s.fDrop := rfl
@[simp] theorem setRxState_trace (m : RxState) : (s.setRxState m).trace = s.trace := rfl
@[simp] theorem setRxState_txRoom (m : RxState) : (s.setRxState m).txRoom = s.txRoom := rfl
@[simp] theorem setRxState_inputs (m : RxState) : (s.setRxState m).inputs = s.inputs := rfl
@[simp] theorem setRxState_txOut (m : RxState) : (s.setRxState m).txOut = s.txOut := rfl
@[simp] theorem setRxState_dispOut (m : RxState) : (s.setRxState m).dispOut = s.dispOut := rfl
@[simp] theorem setRxState_raisedOut (m : RxState) : (s.setRxState m).raisedOut = s.raisedOut := rfl

/-! ### setRx -/

@[simp] theorem setRx_cfg (b : Buffer) : (s.setRx b).cfg = s.cfg := rfl
@[simp] theorem setRx_rx (b : Buffer) : (s.setRx b).rx = b := rfl
@[simp] theorem setRx_rxState (b : Buffer) : (s.setRx b).rxState = s.rxState := rfl
@[simp] theorem setRx_kb (b : Buffer) : (s.setRx b).kb = s.kb := rfl
@[simp] theorem setRx_run (b : Buffer) : (s.setRx b).run = s.run := rfl
@[simp] theorem setRx_haltCause (b : Buffer) : (s.setRx b).haltCause = s.haltCause := rfl
@[simp] theorem setRx_fEscErr (b : Buffer) : (s.setRx b).fEscErr = s.fEscErr := rfl
@[simp] theorem setRx_fRxOvf (b : Buffer) : (s.setRx b).fRxOvf = s.fRxOvf := rfl
@[simp] theorem setRx_fKbOvf (b : Buffer) : (s.setRx b).fKbOvf = s.fKbOvf := rfl
@[simp] theorem setRx_fDrop (b : Buffer) : (s.setRx b).fDrop = s.fDrop := rfl
@[simp] theorem setRx_trace (b : Buffer) : (s.setRx b).trace = s.trace := rfl
@[simp] theorem setRx_txRoom (b : Buffer) : (s.setRx b).txRoom = s.txRoom := rfl
@[simp] theorem setRx_inputs (b : Buffer) : (s.setRx b).inputs = s.inputs := rfl
@[simp] theorem setRx_txOut (b : Buffer) : (s.setRx b).txOut = s.txOut := rfl
@[simp] theorem setRx_dispOut (b : Buffer) : (s.setRx b).dispOut = s.dispOut := rfl
@[simp] theorem setRx_raisedOut (b : Buffer) : (s.setRx b).raisedOut = s.raisedOut := rfl

/-! ### setKb -/

@[simp] theorem setKb_cfg (b : Buffer) : (s.setKb b).cfg = s.cfg := rfl
@[simp] theorem setKb_rx (b : Buffer) : (s.setKb b).rx = s.rx := rfl
@[simp] theorem setKb_rxState (b : Buffer) : (s.setKb b).rxState = s.rxState := rfl
@[simp] theorem setKb_kb (b : Buffer) : (s.setKb b).kb = b := rfl
@[simp] theorem setKb_run (b : Buffer) : (s.setKb b).run = s.run := rfl
@[simp] theorem setKb_haltCause (b : Buffer) : (s.setKb b).haltCause = s.haltCause := rfl
@[simp] theorem setKb_fEscErr (b : Buffer) : (s.setKb b).fEscErr = s.fEscErr := rfl
@[simp] theorem setKb_fRxOvf (b : Buffer) : (s.setKb b).fRxOvf = s.fRxOvf := rfl
@[simp] theorem setKb_fKbOvf (b : Buffer) : (s.setKb b).fKbOvf = s.fKbOvf := rfl
@[simp] theorem setKb_fDrop (b : Buffer) : (s.setKb b).fDrop = s.fDrop := rfl
@[simp] theorem setKb_trace (b : Buffer) : (s.setKb b).trace = s.trace := rfl
@[simp] theorem setKb_txRoom (b : Buffer) : (s.setKb b).txRoom = s.txRoom := rfl
@[simp] theorem setKb_inputs (b : Buffer) : (s.setKb b).inputs = s.inputs := rfl
@[simp] theorem setKb_txOut (b : Buffer) : (s.setKb b).txOut = s.txOut := rfl
@[simp] theorem setKb_dispOut (b : Buffer) : (s.setKb b).dispOut = s.dispOut := rfl
@[simp] theorem setKb_raisedOut (b : Buffer) : (s.setKb b).raisedOut = s.raisedOut := rfl

/-! ### setHalted -/

@[simp] theorem setHalted_cfg (c : HaltCause) : (s.setHalted c).cfg = s.cfg := rfl
@[simp] theorem setHalted_rx (c : HaltCause) : (s.setHalted c).rx = s.rx := rfl
@[simp] theorem setHalted_rxState (c : HaltCause) : (s.setHalted c).rxState = s.rxState := rfl
@[simp] theorem setHalted_kb (c : HaltCause) : (s.setHalted c).kb = s.kb := rfl
@[simp] theorem setHalted_run (c : HaltCause) : (s.setHalted c).run = .halted := rfl
@[simp] theorem setHalted_haltCause (c : HaltCause) : (s.setHalted c).haltCause = c := rfl
@[simp] theorem setHalted_fEscErr (c : HaltCause) : (s.setHalted c).fEscErr = s.fEscErr := rfl
@[simp] theorem setHalted_fRxOvf (c : HaltCause) : (s.setHalted c).fRxOvf = s.fRxOvf := rfl
@[simp] theorem setHalted_fKbOvf (c : HaltCause) : (s.setHalted c).fKbOvf = s.fKbOvf := rfl
@[simp] theorem setHalted_fDrop (c : HaltCause) : (s.setHalted c).fDrop = s.fDrop := rfl
@[simp] theorem setHalted_trace (c : HaltCause) : (s.setHalted c).trace = s.trace := rfl
@[simp] theorem setHalted_txRoom (c : HaltCause) : (s.setHalted c).txRoom = s.txRoom := rfl
@[simp] theorem setHalted_inputs (c : HaltCause) : (s.setHalted c).inputs = s.inputs := rfl
@[simp] theorem setHalted_txOut (c : HaltCause) : (s.setHalted c).txOut = s.txOut := rfl
@[simp] theorem setHalted_dispOut (c : HaltCause) : (s.setHalted c).dispOut = s.dispOut := rfl
@[simp] theorem setHalted_raisedOut (c : HaltCause) : (s.setHalted c).raisedOut = s.raisedOut := rfl

/-! ### setTxRoom -/

@[simp] theorem setTxRoom_cfg (k : Option Nat) : (s.setTxRoom k).cfg = s.cfg := rfl
@[simp] theorem setTxRoom_rx (k : Option Nat) : (s.setTxRoom k).rx = s.rx := rfl
@[simp] theorem setTxRoom_rxState (k : Option Nat) : (s.setTxRoom k).rxState = s.rxState := rfl
@[simp] theorem setTxRoom_kb (k : Option Nat) : (s.setTxRoom k).kb = s.kb := rfl
@[simp] theorem setTxRoom_run (k : Option Nat) : (s.setTxRoom k).run = s.run := rfl
@[simp] theorem setTxRoom_haltCause (k : Option Nat) : (s.setTxRoom k).haltCause = s.haltCause := rfl
@[simp] theorem setTxRoom_fEscErr (k : Option Nat) : (s.setTxRoom k).fEscErr = s.fEscErr := rfl
@[simp] theorem setTxRoom_fRxOvf (k : Option Nat) : (s.setTxRoom k).fRxOvf = s.fRxOvf := rfl
@[simp] theorem setTxRoom_fKbOvf (k : Option Nat) : (s.setTxRoom k).fKbOvf = s.fKbOvf := rfl
@[simp] theorem setTxRoom_fDrop (k : Option Nat) : (s.setTxRoom k).fDrop = s.fDrop := rfl
@[simp] theorem setTxRoom_trace (k : Option Nat) : (s.setTxRoom k).trace = s.trace := rfl
@[simp] theorem setTxRoom_txRoom (k : Option Nat) : (s.setTxRoom k).txRoom = k := rfl
@[simp] theorem setTxRoom_inputs (k : Option Nat) : (s.setTxRoom k).inputs = s.inputs := rfl
@[simp] theorem setTxRoom_txOut (k : Option Nat) : (s.setTxRoom k).txOut = s.txOut := rfl
@[simp] theorem setTxRoom_dispOut (k : Option Nat) : (s.setTxRoom k).dispOut = s.dispOut := rfl
@[simp] theorem setTxRoom_raisedOut (k : Option Nat) : (s.setTxRoom k).raisedOut = s.raisedOut := rfl

/-! ### setInputs -/

@[simp] theorem setInputs_cfg (es : List Event) : (s.setInputs es).cfg = s.cfg := rfl
@[simp] theorem setInputs_rx (es : List Event) : (s.setInputs es).rx = s.rx := rfl
@[simp] theorem setInputs_rxState (es : List Event) : (s.setInputs es).rxState = s.rxState := rfl
@[simp] theorem setInputs_kb (es : List Event) : (s.setInputs es).kb = s.kb := rfl
@[simp] theorem setInputs_run (es : List Event) : (s.setInputs es).run = s.run := rfl
@[simp] theorem setInputs_haltCause (es : List Event) : (s.setInputs es).haltCause = s.haltCause := rfl
@[simp] theorem setInputs_fEscErr (es : List Event) : (s.setInputs es).fEscErr = s.fEscErr := rfl
@[simp] theorem setInputs_fRxOvf (es : List Event) : (s.setInputs es).fRxOvf = s.fRxOvf := rfl
@[simp] theorem setInputs_fKbOvf (es : List Event) : (s.setInputs es).fKbOvf = s.fKbOvf := rfl
@[simp] theorem setInputs_fDrop (es : List Event) : (s.setInputs es).fDrop = s.fDrop := rfl
@[simp] theorem setInputs_trace (es : List Event) : (s.setInputs es).trace = s.trace := rfl
@[simp] theorem setInputs_txRoom (es : List Event) : (s.setInputs es).txRoom = s.txRoom := rfl
@[simp] theorem setInputs_inputs (es : List Event) : (s.setInputs es).inputs = es := rfl
@[simp] theorem setInputs_txOut (es : List Event) : (s.setInputs es).txOut = s.txOut := rfl
@[simp] theorem setInputs_dispOut (es : List Event) : (s.setInputs es).dispOut = s.dispOut := rfl
@[simp] theorem setInputs_raisedOut (es : List Event) : (s.setInputs es).raisedOut = s.raisedOut := rfl

/-! ### clearRx -/

@[simp] theorem clearRx_cfg : (s.clearRx).cfg = s.cfg := rfl
@[simp] theorem clearRx_rx : (s.clearRx).rx = Buffer.empty := rfl
@[simp] theorem clearRx_rxState : (s.clearRx).rxState = s.rxState := rfl
@[simp] theorem clearRx_kb : (s.clearRx).kb = s.kb := rfl
@[simp] theorem clearRx_run : (s.clearRx).run = s.run := rfl
@[simp] theorem clearRx_haltCause : (s.clearRx).haltCause = s.haltCause := rfl
@[simp] theorem clearRx_fEscErr : (s.clearRx).fEscErr = s.fEscErr := rfl
@[simp] theorem clearRx_fRxOvf : (s.clearRx).fRxOvf = s.fRxOvf := rfl
@[simp] theorem clearRx_fKbOvf : (s.clearRx).fKbOvf = s.fKbOvf := rfl
@[simp] theorem clearRx_fDrop : (s.clearRx).fDrop = s.fDrop := rfl
@[simp] theorem clearRx_trace : (s.clearRx).trace = s.trace := rfl
@[simp] theorem clearRx_txRoom : (s.clearRx).txRoom = s.txRoom := rfl
@[simp] theorem clearRx_inputs : (s.clearRx).inputs = s.inputs := rfl
@[simp] theorem clearRx_txOut : (s.clearRx).txOut = s.txOut := rfl
@[simp] theorem clearRx_dispOut : (s.clearRx).dispOut = s.dispOut := rfl
@[simp] theorem clearRx_raisedOut : (s.clearRx).raisedOut = s.raisedOut := rfl

/-! ### clearKb -/

@[simp] theorem clearKb_cfg : (s.clearKb).cfg = s.cfg := rfl
@[simp] theorem clearKb_rx : (s.clearKb).rx = s.rx := rfl
@[simp] theorem clearKb_rxState : (s.clearKb).rxState = s.rxState := rfl
@[simp] theorem clearKb_kb : (s.clearKb).kb = Buffer.empty := rfl
@[simp] theorem clearKb_run : (s.clearKb).run = s.run := rfl
@[simp] theorem clearKb_haltCause : (s.clearKb).haltCause = s.haltCause := rfl
@[simp] theorem clearKb_fEscErr : (s.clearKb).fEscErr = s.fEscErr := rfl
@[simp] theorem clearKb_fRxOvf : (s.clearKb).fRxOvf = s.fRxOvf := rfl
@[simp] theorem clearKb_fKbOvf : (s.clearKb).fKbOvf = s.fKbOvf := rfl
@[simp] theorem clearKb_fDrop : (s.clearKb).fDrop = s.fDrop := rfl
@[simp] theorem clearKb_trace : (s.clearKb).trace = s.trace := rfl
@[simp] theorem clearKb_txRoom : (s.clearKb).txRoom = s.txRoom := rfl
@[simp] theorem clearKb_inputs : (s.clearKb).inputs = s.inputs := rfl
@[simp] theorem clearKb_txOut : (s.clearKb).txOut = s.txOut := rfl
@[simp] theorem clearKb_dispOut : (s.clearKb).dispOut = s.dispOut := rfl
@[simp] theorem clearKb_raisedOut : (s.clearKb).raisedOut = s.raisedOut := rfl

/-! ### setEscErr -/

@[simp] theorem setEscErr_cfg : (s.setEscErr).cfg = s.cfg := rfl
@[simp] theorem setEscErr_rx : (s.setEscErr).rx = s.rx := rfl
@[simp] theorem setEscErr_rxState : (s.setEscErr).rxState = s.rxState := rfl
@[simp] theorem setEscErr_kb : (s.setEscErr).kb = s.kb := rfl
@[simp] theorem setEscErr_run : (s.setEscErr).run = s.run := rfl
@[simp] theorem setEscErr_haltCause : (s.setEscErr).haltCause = s.haltCause := rfl
@[simp] theorem setEscErr_fEscErr : (s.setEscErr).fEscErr = true := rfl
@[simp] theorem setEscErr_fRxOvf : (s.setEscErr).fRxOvf = s.fRxOvf := rfl
@[simp] theorem setEscErr_fKbOvf : (s.setEscErr).fKbOvf = s.fKbOvf := rfl
@[simp] theorem setEscErr_fDrop : (s.setEscErr).fDrop = s.fDrop := rfl
@[simp] theorem setEscErr_trace : (s.setEscErr).trace = s.trace := rfl
@[simp] theorem setEscErr_txRoom : (s.setEscErr).txRoom = s.txRoom := rfl
@[simp] theorem setEscErr_inputs : (s.setEscErr).inputs = s.inputs := rfl
@[simp] theorem setEscErr_txOut : (s.setEscErr).txOut = s.txOut := rfl
@[simp] theorem setEscErr_dispOut : (s.setEscErr).dispOut = s.dispOut := rfl
@[simp] theorem setEscErr_raisedOut : (s.setEscErr).raisedOut = s.raisedOut := rfl

/-! ### setRxOvf -/

@[simp] theorem setRxOvf_cfg : (s.setRxOvf).cfg = s.cfg := rfl
@[simp] theorem setRxOvf_rx : (s.setRxOvf).rx = s.rx := rfl
@[simp] theorem setRxOvf_rxState : (s.setRxOvf).rxState = s.rxState := rfl
@[simp] theorem setRxOvf_kb : (s.setRxOvf).kb = s.kb := rfl
@[simp] theorem setRxOvf_run : (s.setRxOvf).run = s.run := rfl
@[simp] theorem setRxOvf_haltCause : (s.setRxOvf).haltCause = s.haltCause := rfl
@[simp] theorem setRxOvf_fEscErr : (s.setRxOvf).fEscErr = s.fEscErr := rfl
@[simp] theorem setRxOvf_fRxOvf : (s.setRxOvf).fRxOvf = true := rfl
@[simp] theorem setRxOvf_fKbOvf : (s.setRxOvf).fKbOvf = s.fKbOvf := rfl
@[simp] theorem setRxOvf_fDrop : (s.setRxOvf).fDrop = s.fDrop := rfl
@[simp] theorem setRxOvf_trace : (s.setRxOvf).trace = s.trace := rfl
@[simp] theorem setRxOvf_txRoom : (s.setRxOvf).txRoom = s.txRoom := rfl
@[simp] theorem setRxOvf_inputs : (s.setRxOvf).inputs = s.inputs := rfl
@[simp] theorem setRxOvf_txOut : (s.setRxOvf).txOut = s.txOut := rfl
@[simp] theorem setRxOvf_dispOut : (s.setRxOvf).dispOut = s.dispOut := rfl
@[simp] theorem setRxOvf_raisedOut : (s.setRxOvf).raisedOut = s.raisedOut := rfl

/-! ### setKbOvf -/

@[simp] theorem setKbOvf_cfg : (s.setKbOvf).cfg = s.cfg := rfl
@[simp] theorem setKbOvf_rx : (s.setKbOvf).rx = s.rx := rfl
@[simp] theorem setKbOvf_rxState : (s.setKbOvf).rxState = s.rxState := rfl
@[simp] theorem setKbOvf_kb : (s.setKbOvf).kb = s.kb := rfl
@[simp] theorem setKbOvf_run : (s.setKbOvf).run = s.run := rfl
@[simp] theorem setKbOvf_haltCause : (s.setKbOvf).haltCause = s.haltCause := rfl
@[simp] theorem setKbOvf_fEscErr : (s.setKbOvf).fEscErr = s.fEscErr := rfl
@[simp] theorem setKbOvf_fRxOvf : (s.setKbOvf).fRxOvf = s.fRxOvf := rfl
@[simp] theorem setKbOvf_fKbOvf : (s.setKbOvf).fKbOvf = true := rfl
@[simp] theorem setKbOvf_fDrop : (s.setKbOvf).fDrop = s.fDrop := rfl
@[simp] theorem setKbOvf_trace : (s.setKbOvf).trace = s.trace := rfl
@[simp] theorem setKbOvf_txRoom : (s.setKbOvf).txRoom = s.txRoom := rfl
@[simp] theorem setKbOvf_inputs : (s.setKbOvf).inputs = s.inputs := rfl
@[simp] theorem setKbOvf_txOut : (s.setKbOvf).txOut = s.txOut := rfl
@[simp] theorem setKbOvf_dispOut : (s.setKbOvf).dispOut = s.dispOut := rfl
@[simp] theorem setKbOvf_raisedOut : (s.setKbOvf).raisedOut = s.raisedOut := rfl

/-! ### setDrop -/

@[simp] theorem setDrop_cfg : (s.setDrop).cfg = s.cfg := rfl
@[simp] theorem setDrop_rx : (s.setDrop).rx = s.rx := rfl
@[simp] theorem setDrop_rxState : (s.setDrop).rxState = s.rxState := rfl
@[simp] theorem setDrop_kb : (s.setDrop).kb = s.kb := rfl
@[simp] theorem setDrop_run : (s.setDrop).run = s.run := rfl
@[simp] theorem setDrop_haltCause : (s.setDrop).haltCause = s.haltCause := rfl
@[simp] theorem setDrop_fEscErr : (s.setDrop).fEscErr = s.fEscErr := rfl
@[simp] theorem setDrop_fRxOvf : (s.setDrop).fRxOvf = s.fRxOvf := rfl
@[simp] theorem setDrop_fKbOvf : (s.setDrop).fKbOvf = s.fKbOvf := rfl
@[simp] theorem setDrop_fDrop : (s.setDrop).fDrop = true := rfl
@[simp] theorem setDrop_trace : (s.setDrop).trace = s.trace := rfl
@[simp] theorem setDrop_txRoom : (s.setDrop).txRoom = s.txRoom := rfl
@[simp] theorem setDrop_inputs : (s.setDrop).inputs = s.inputs := rfl
@[simp] theorem setDrop_txOut : (s.setDrop).txOut = s.txOut := rfl
@[simp] theorem setDrop_dispOut : (s.setDrop).dispOut = s.dispOut := rfl
@[simp] theorem setDrop_raisedOut : (s.setDrop).raisedOut = s.raisedOut := rfl

/-! ### The streams after one observation -/

@[simp] theorem observe_tx_txOut (b : Byte) : (s.observe (.tx b)).txOut = s.txOut ++ [b] := by
  simp [txOut, observe]
@[simp] theorem observe_tx_dispOut (b : Byte) : (s.observe (.tx b)).dispOut = s.dispOut := by
  simp [dispOut, observe]
@[simp] theorem observe_tx_raisedOut (b : Byte) : (s.observe (.tx b)).raisedOut = s.raisedOut := by
  simp [raisedOut, observe]
@[simp] theorem observe_disp_txOut (b : Byte) : (s.observe (.disp b)).txOut = s.txOut := by
  simp [txOut, observe]
@[simp] theorem observe_disp_dispOut (b : Byte) : (s.observe (.disp b)).dispOut = s.dispOut ++ [b] := by
  simp [dispOut, observe]
@[simp] theorem observe_disp_raisedOut (b : Byte) : (s.observe (.disp b)).raisedOut = s.raisedOut := by
  simp [raisedOut, observe]
@[simp] theorem observe_raised_txOut (e : Abnormal) : (s.observe (.raised e)).txOut = s.txOut := by
  simp [txOut, observe]
@[simp] theorem observe_raised_dispOut (e : Abnormal) : (s.observe (.raised e)).dispOut = s.dispOut := by
  simp [dispOut, observe]
@[simp] theorem observe_raised_raisedOut (e : Abnormal) :
    (s.observe (.raised e)).raisedOut = s.raisedOut ++ [e] := by
  simp [raisedOut, observe]

end Sys2Proof.Machine.State
end

