-- ==== Sys2Proof/Laws/Output.lean ====
section
/-! SUPPORT. Transmission: `send(p)` byte by byte (R85, R86) is the frame of the packet, cut where the draw says (R146);
and the display loop (R100). -/

namespace Sys2Proof.Machine

/-- Bytes emitted one after the other, ending at the first failure: what `send` unfolds to. -/
def emitAll : List Byte → State → Sent
  | [], s => .ok s
  | b :: bs, s => (emitTx b s).andThen (emitAll bs)

@[simp] theorem Sent.ok_andThen (s : State) (f : State → Sent) : (Sent.ok s).andThen f = f s := rfl
@[simp] theorem Sent.failed_andThen (s : State) (f : State → Sent) : (Sent.failed s).andThen f = .failed s := rfl

theorem Sent.andThen_assoc (r : Sent) (f g : State → Sent) :
    (r.andThen f).andThen g = r.andThen fun s => (f s).andThen g := by
  cases r <;> rfl

theorem Sent.andThen_ok (r : Sent) : r.andThen Sent.ok = r := by cases r <;> rfl

theorem emitAll_append (xs ys : List Byte) (s : State) :
    emitAll (xs ++ ys) s = (emitAll xs s).andThen (emitAll ys) := by
  induction xs generalizing s with
  | nil => rfl
  | cons x xs ih =>
    have ih' : emitAll (xs ++ ys) = fun s => (emitAll xs s).andThen (emitAll ys) := funext ih
    simp only [List.cons_append, emitAll, Sent.andThen_assoc, ih']

/-- One emission: appended, or failed with nothing changed. -/
theorem emitTx_cases (b : Byte) (s : State) :
    (s.txRoom = none ∧ emitTx b s = .ok (s.observe (.tx b))) ∨
    (∃ k, s.txRoom = some (k + 1) ∧ emitTx b s = .ok ((s.observe (.tx b)).setTxRoom (some k))) ∨
    (s.txRoom = some 0 ∧ emitTx b s = .failed s) := by
  unfold emitTx
  split <;> simp_all

/-- An emission leaves the configuration alone. -/
theorem emitTx_ok_cfg {b : Byte} {s t : State} (h : emitTx b s = .ok t) : t.cfg = s.cfg := by
  rcases emitTx_cases b s with ⟨_, e⟩ | ⟨k, _, e⟩ | ⟨_, e⟩ <;> rw [e] at h <;> cases h <;> rfl

theorem emitAll_ok_cfg {bs : List Byte} {s t : State} (h : emitAll bs s = .ok t) : t.cfg = s.cfg := by
  induction bs generalizing s with
  | nil => cases h; rfl
  | cons b bs ih =>
    rcases emitTx_cases b s with ⟨_, e⟩ | ⟨k, _, e⟩ | ⟨_, e⟩ <;> simp only [emitAll, e, Sent.ok_andThen, Sent.failed_andThen] at h
    · simpa using ih h
    · simpa using ih h
    · cases h

theorem emitAll_one (b : Byte) (s : State) : emitAll [b] s = emitTx b s := Sent.andThen_ok _

theorem encByte_eq (b : Byte) (s : State) : encByte b s = emitAll (escByte s.cfg b) s := by
  unfold encByte escByte
  split_ifs with h1 h2
  · simp only [emitAll]
    cases e : emitTx s.cfg.ESC s with
    | ok t => simp [Sent.andThen_ok, emitTx_ok_cfg e]
    | failed t => rfl
  · simp only [emitAll]
    cases e : emitTx s.cfg.ESC s with
    | ok t => simp [Sent.andThen_ok, emitTx_ok_cfg e]
    | failed t => rfl
  · exact (emitAll_one _ _).symm

theorem encBytes_eq (p : Packet) (s : State) : encBytes p s = emitAll (p.flatMap (escByte s.cfg)) s := by
  induction p generalizing s with
  | nil => rfl
  | cons b bs ih =>
    simp only [encBytes, List.flatMap_cons, emitAll_append, encByte_eq]
    cases e : emitAll (escByte s.cfg b) s with
    | ok t => simp [ih, emitAll_ok_cfg e]
    | failed t => rfl

/-- `send(p)` emits exactly `frame(p)`, byte after byte. -/
theorem send_eq (p : Packet) (s : State) : send p s = emitAll (frame s.cfg p) s := by
  unfold send frame
  rw [encBytes_eq, emitAll_append]
  cases e : emitAll (p.flatMap (escByte s.cfg)) s with
  | ok t => simp [emitAll_one, emitAll_ok_cfg e]
  | failed t => rfl

/-- With no failure drawn, every byte is appended to the trace, in order. -/
theorem emitAll_none {s : State} (h : s.txRoom = none) (bs : List Byte) :
    emitAll bs s = .ok { s with trace := s.trace ++ bs.map .tx } := by
  induction bs generalizing s with
  | nil => simp [emitAll]
  | cons b bs ih =>
    have e : emitTx b s = .ok (s.observe (.tx b)) := by simp [emitTx, h]
    simp only [emitAll, e, Sent.ok_andThen]
    rw [ih (by simpa using h)]
    simp [State.observe]

/-- With room for them all, every byte is appended and the room shrinks by their number. -/
theorem emitAll_enough {s : State} {k : Nat} (h : s.txRoom = some k) (bs : List Byte) (hk : bs.length ≤ k) :
    emitAll bs s = .ok { s with trace := s.trace ++ bs.map .tx, txRoom := some (k - bs.length) } := by
  induction bs generalizing s k with
  | nil => obtain ⟨⟩ := s; simp_all [emitAll]
  | cons b bs ih =>
    obtain ⟨j, rfl⟩ : ∃ j, k = j + 1 := ⟨k - 1, by simp at hk; omega⟩
    have e : emitTx b s = .ok ((s.observe (.tx b)).setTxRoom (some j)) := by simp [emitTx, h]
    simp only [emitAll, e, Sent.ok_andThen]
    rw [ih (k := j) rfl (by simpa using hk)]
    simp [State.observe, State.setTxRoom]

/-- With room for only `k` of them, exactly the first `k` are appended, then the transmission fails (R146). -/
theorem emitAll_cut {s : State} {k : Nat} (h : s.txRoom = some k) (bs : List Byte) (hk : k < bs.length) :
    emitAll bs s = .failed { s with trace := s.trace ++ (bs.take k).map .tx, txRoom := some 0 } := by
  induction bs generalizing s k with
  | nil => simp at hk
  | cons b bs ih =>
    cases k with
    | zero => obtain ⟨⟩ := s; simp_all [emitAll, emitTx]
    | succ j =>
      have e : emitTx b s = .ok ((s.observe (.tx b)).setTxRoom (some j)) := by simp [emitTx, h]
      simp only [emitAll, e, Sent.ok_andThen]
      rw [ih (k := j) rfl (by simpa using hk)]
      simp [State.observe, State.setTxRoom]

/-- Everything `send(p)` then `onOk` or `halt(XPORT)` can do: the whole frame went out, or it was cut. -/
theorem sendOrHalt_cases (p : Packet) (onOk : State → State) (s : State) :
    (s.txRoom = none ∧
      sendOrHalt p onOk s = onOk { s with trace := s.trace ++ (frame s.cfg p).map .tx }) ∨
    (∃ k, s.txRoom = some k ∧ (frame s.cfg p).length ≤ k ∧
      sendOrHalt p onOk s =
        onOk { s with trace := s.trace ++ (frame s.cfg p).map .tx, txRoom := some (k - (frame s.cfg p).length) }) ∨
    (∃ k, s.txRoom = some k ∧ k < (frame s.cfg p).length ∧
      sendOrHalt p onOk s =
        halt .xport { s with trace := s.trace ++ ((frame s.cfg p).take k).map .tx, txRoom := some 0 }) := by
  unfold sendOrHalt
  rw [send_eq]
  cases h : s.txRoom with
  | none => exact .inl ⟨rfl, by simp only [emitAll_none h, h]⟩
  | some k =>
    by_cases hk : (frame s.cfg p).length ≤ k
    · exact .inr (.inl ⟨k, rfl, hk, by rw [emitAll_enough h _ hk]⟩)
    · exact .inr (.inr ⟨k, rfl, by omega, by rw [emitAll_cut h _ (by omega)]⟩)

/-! ## The streams after a run of emissions -/

/-- Bytes transmitted stand in `tx_out`, and nowhere else. -/
theorem State.views_of_tx {s t : State} {bs : List Byte} (h : t.trace = s.trace ++ bs.map .tx) :
    t.txOut = s.txOut ++ bs ∧ t.dispOut = s.dispOut ∧ t.raisedOut = s.raisedOut := by
  refine ⟨?_, ?_, ?_⟩ <;> simp [txOut, dispOut, raisedOut, h, List.filterMap_map]

/-- Bytes displayed stand in `disp_out`, and nowhere else. -/
theorem State.views_of_disp {s t : State} {bs : List Byte} (h : t.trace = s.trace ++ bs.map .disp) :
    t.dispOut = s.dispOut ++ bs ∧ t.txOut = s.txOut ∧ t.raisedOut = s.raisedOut := by
  refine ⟨?_, ?_, ?_⟩ <;> simp [txOut, dispOut, raisedOut, h, List.filterMap_map]

/-- The display loop appends the payload to the trace, in order. -/
theorem emitDispAll_eq (bs : List Byte) (s : State) :
    emitDispAll bs s = { s with trace := s.trace ++ bs.map .disp } := by
  induction bs generalizing s with
  | nil => simp [emitDispAll]
  | cons b bs ih => simp [emitDispAll, ih, emitDisp, State.observe]

end Sys2Proof.Machine
end

