-- ==== Sys2Proof/Laws/Ops.lean ====
section
/-! SUPPORT. What the shared operations can do, said once: abnormal events, `store`, the selection of a packet's opcode,
the arms, one step. -/

namespace Sys2Proof.Machine

variable (s : State)

/-! ## Abnormal events -/

@[simp] theorem raise_cfg (e : Abnormal) : (raise e s).cfg = s.cfg := by cases e <;> rfl
@[simp] theorem halt_cfg (c : HaltCause) : (halt c s).cfg = s.cfg := rfl
@[simp] theorem raise_rx (e : Abnormal) : (raise e s).rx = s.rx := by cases e <;> rfl
@[simp] theorem halt_rx (c : HaltCause) : (halt c s).rx = s.rx := rfl
@[simp] theorem raise_rxState (e : Abnormal) : (raise e s).rxState = s.rxState := by cases e <;> rfl
@[simp] theorem halt_rxState (c : HaltCause) : (halt c s).rxState = s.rxState := rfl
@[simp] theorem raise_kb (e : Abnormal) : (raise e s).kb = s.kb := by cases e <;> rfl
@[simp] theorem halt_kb (c : HaltCause) : (halt c s).kb = s.kb := rfl
@[simp] theorem raise_txRoom (e : Abnormal) : (raise e s).txRoom = s.txRoom := by cases e <;> rfl
@[simp] theorem halt_txRoom (c : HaltCause) : (halt c s).txRoom = s.txRoom := rfl
@[simp] theorem raise_inputs (e : Abnormal) : (raise e s).inputs = s.inputs := by cases e <;> rfl
@[simp] theorem halt_inputs (c : HaltCause) : (halt c s).inputs = s.inputs := rfl
@[simp] theorem raise_trace (e : Abnormal) : (raise e s).trace = s.trace ++ [.raised e] := by cases e <;> rfl
@[simp] theorem raise_txOut (e : Abnormal) : (raise e s).txOut = s.txOut := by
  cases e <;> exact State.observe_raised_txOut s _
@[simp] theorem raise_dispOut (e : Abnormal) : (raise e s).dispOut = s.dispOut := by
  cases e <;> exact State.observe_raised_dispOut s _
@[simp] theorem raise_raisedOut (e : Abnormal) : (raise e s).raisedOut = s.raisedOut ++ [e] := by
  cases e <;> exact State.observe_raised_raisedOut s _
@[simp] theorem halt_run (c : HaltCause) : (halt c s).run = .halted := rfl
@[simp] theorem halt_haltCause (c : HaltCause) : (halt c s).haltCause = c := rfl
@[simp] theorem halt_trace (c : HaltCause) : (halt c s).trace = s.trace ++ [.raised (.halt c)] := rfl

/-! ## The receive buffer -/

/-- Everything `store(v)` can do (R70): the byte is appended, or the frame is discarded. -/
theorem store_cases (v : Byte) :
    (s.rx.len < s.cfg.RX_CAP ∧ store v s = { s with rx := s.rx.push v, rxState := .normal }) ∨
    (s.cfg.RX_CAP ≤ s.rx.len ∧
      store v s =
        { s with
          rx := Buffer.empty, rxState := .discard, fRxOvf := true, trace := s.trace ++ [.raised .framingOvf] }) := by
  unfold store
  split_ifs with h
  · exact .inl ⟨h, rfl⟩
  · exact .inr ⟨by omega, rfl⟩

/-! ## The selection of a packet's opcode -/

@[simp] theorem withHeader_length (tag : Byte) (payload : List Byte) :
    (withHeader tag payload).length = payload.length + 2 := rfl

/-- The selection commutes with any function of its result: the decoder and the dispatcher make the same choice. -/
theorem byTag_map {α β : Type} (f : α → β) (c : Config) (p : Packet) (d : α) (t k w i : List Byte → α) :
    f (byTag c p d t k w i) =
      byTag c p (f d) (fun x => f (t x)) (fun x => f (k x)) (fun x => f (w x)) (fun x => f (i x)) := by
  unfold byTag
  split
  · split_ifs <;> rfl
  · rfl

/-- Everything the selection can choose (R95), with the reason it was chosen. -/
theorem byTag_cases {α : Type} (c : Config) (p : Packet) (d : α) (t k w i : List Byte → α) :
    (isRequest c p = false ∧ byTag c p d t k w i = d) ∨
    (∃ x, p = withHeader c.T_TERMSPEC_QUERY x ∧ byTag c p d t k w i = t x) ∨
    (∃ x, p = withHeader c.T_KEY_POLL x ∧ byTag c p d t k w i = k x) ∨
    (∃ x, p = withHeader c.T_DISPLAY_WRITE x ∧ byTag c p d t k w i = w x) ∨
    (∃ x, p = withHeader T_INTERRUPT x ∧ byTag c p d t k w i = i x) := by
  match p with
  | [] => exact .inl ⟨rfl, rfl⟩
  | [_] => exact .inl ⟨rfl, rfl⟩
  | a :: b :: x =>
    unfold withHeader
    by_cases h1 : a = b
    swap
    · exact .inl ⟨by simp [isRequest, h1], by simp [byTag, h1]⟩
    subst h1
    by_cases h2 : a = c.T_TERMSPEC_QUERY
    · exact .inr (.inl ⟨x, by rw [h2], by simp [byTag, h2]⟩)
    by_cases h3 : a = c.T_KEY_POLL
    · exact .inr (.inr (.inl ⟨x, by rw [h3], by simp [byTag, h2, ← h3]⟩))
    by_cases h4 : a = c.T_DISPLAY_WRITE
    · exact .inr (.inr (.inr (.inl ⟨x, by rw [h4], by simp [byTag, h2, h3, ← h4]⟩)))
    by_cases h5 : a = T_INTERRUPT
    · subst h5
      exact .inr (.inr (.inr (.inr ⟨x, rfl, by simp [byTag, h2, h3, h4]⟩)))
    · exact .inl ⟨by simp [isRequest, h2, h3, h4, h5], by simp [byTag, h2, h3, h4, h5]⟩

/-! ## The arms -/

/-- Everything the four opcodes and the drop can do to the state, over the frame they send. -/
theorem deliver_cases (p : Packet) :
    (p = [] ∧ deliver p s = .next s) ∨
    (p ≠ [] ∧ isRequest s.cfg p = false ∧ deliver p s = execDrop p s) ∨
    (∃ x, p = withHeader s.cfg.T_TERMSPEC_QUERY x ∧ deliver p s = execTermspecQuery x s) ∨
    (∃ x, p = withHeader s.cfg.T_KEY_POLL x ∧ deliver p s = execKeyPoll x s) ∨
    (∃ x, p = withHeader s.cfg.T_DISPLAY_WRITE x ∧ deliver p s = execDisplayWrite x s) ∨
    (∃ x, p = withHeader T_INTERRUPT x ∧ deliver p s = execInterrupt x s) := by
  cases p with
  | nil => exact .inl ⟨rfl, rfl⟩
  | cons a q =>
    right
    rcases byTag_cases s.cfg (a :: q) (execDrop (a :: q) s) (fun x => execTermspecQuery x s) (fun x => execKeyPoll x s)
      (fun x => execDisplayWrite x s) (fun x => execInterrupt x s) with h | h
    · exact .inl ⟨by simp, h⟩
    · exact .inr h

/-! ## One step -/

/-- Everything one step can do: refuse, idle, or take the oldest event (R125, R126, R133). -/
theorem step_cases :
    (¬ s.cfg.Ok ∧ step s = .refused .illFormedConfig) ∨
    (s.cfg.Ok ∧ s.inputs = [] ∧ step s = .next s) ∨
    (∃ rest, s.cfg.Ok ∧ s.inputs = .reset :: rest ∧ step s = .next (resetBlock (s.setInputs rest))) ∨
    (∃ e rest, s.cfg.Ok ∧ s.inputs = e :: rest ∧ e ≠ .reset ∧ s.run = .halted ∧ step s = .next (s.setInputs rest)) ∨
    (∃ b draw rest, s.cfg.Ok ∧ s.inputs = .rxByte b draw :: rest ∧ s.run = .running ∧
      step s = exec (decodeSymbol s.cfg s.rxState s.rx.len b) ((s.setInputs rest).setTxRoom draw)) ∨
    (∃ k rest, s.cfg.Ok ∧ s.inputs = .key k :: rest ∧ s.run = .running ∧ s.kb.len < s.cfg.KB_CAP ∧
      step s = .next ((s.setInputs rest).setKb (s.kb.push k))) ∨
    (∃ k rest, s.cfg.Ok ∧ s.inputs = .key k :: rest ∧ s.run = .running ∧ s.cfg.KB_CAP ≤ s.kb.len ∧
      step s = .next (raise (.kbOverflow k) (s.setInputs rest))) ∨
    (∃ rest, s.cfg.Ok ∧ s.inputs = .xportFail :: rest ∧ s.run = .running ∧
      step s = .next (halt .xport (s.setInputs rest))) := by
  by_cases hc : s.cfg.Ok
  swap
  · exact .inl ⟨hc, by simp only [step, if_neg hc]⟩
  have hs : step s = nextEvent s := by simp only [step, if_pos hc]
  right
  rw [hs]
  cases hi : s.inputs with
  | nil => exact .inl ⟨hc, rfl, by simp [nextEvent, hi]⟩
  | cons e rest =>
    right
    have hn : nextEvent s = takeEvent e (s.setInputs rest) := by simp [nextEvent, hi]
    rw [hn]
    cases e with
    | reset => exact .inl ⟨rest, hc, rfl, rfl⟩
    | rxByte b draw =>
      cases hr : s.run with
      | halted =>
        exact .inr (.inl ⟨_, rest, hc, rfl, by simp, rfl, by simp [takeEvent, rxByte, hr]⟩)
      | running =>
        exact .inr (.inr (.inl ⟨b, draw, rest, hc, rfl, rfl, by simp [takeEvent, rxByte, fetchSymbol, hr]⟩))
    | key k =>
      cases hr : s.run with
      | halted => exact .inr (.inl ⟨_, rest, hc, rfl, by simp, rfl, by simp [takeEvent, key, hr]⟩)
      | running =>
        by_cases hk : s.kb.len < s.cfg.KB_CAP
        · exact .inr (.inr (.inr (.inl ⟨k, rest, hc, rfl, rfl, hk, by simp [takeEvent, key, hr, hk]⟩)))
        · exact .inr (.inr (.inr (.inr (.inl ⟨k, rest, hc, rfl, rfl, by omega, by simp [takeEvent, key, hr, hk]⟩))))
    | xportFail =>
      cases hr : s.run with
      | halted => exact .inr (.inl ⟨_, rest, hc, rfl, by simp, rfl, by simp [takeEvent, xportFail, hr]⟩)
      | running =>
        exact .inr (.inr (.inr (.inr (.inr ⟨rest, hc, rfl, rfl, by simp [takeEvent, xportFail, hr]⟩))))

end Sys2Proof.Machine
end

