-- ==== Sys2Proof/Laws/PerInstr.lean ====
section
/-! SUPPORT. Statements about every instruction as syntax, one lemma per constructor. -/

/-- The bytes of a well-formed instruction: at least one, and no more than the receive buffer holds. -/
def Sys2Proof.Laws.EncodeFits.Statement (i : Sys2Proof.Instr) : Prop :=
  ∀ c : Sys2Proof.Config, c.Ok → i.wellFormed c = true →
    1 ≤ (Sys2Proof.encode c i).length ∧ (Sys2Proof.encode c i).length ≤ c.RX_CAP

namespace Sys2Proof.Laws.EncodeFits

/-- One byte fits: the receive buffer holds at least a header (R6 constraint 3). -/
theorem one_le_rx_cap {c : Config} (h : c.Ok) : 1 ≤ c.RX_CAP := by
  obtain ⟨-, -, h, -⟩ := h
  omega

/-- A packet that fits the agreed maximum fits the receive buffer (R6 constraint 3). -/
theorem le_rx_cap {c : Config} (h : c.Ok) {n : Nat} (hn : n ≤ c.MAX_PACKET) : n ≤ c.RX_CAP := by
  obtain ⟨-, -, h, -⟩ := h
  omega

theorem termspecQuery (extra : List Byte) : Statement (.termspecQuery extra) := by
  intro c _ hw
  exact ⟨by simp [encode], by simpa [encode, Instr.wellFormed] using hw⟩

theorem keyPoll (extra : List Byte) : Statement (.keyPoll extra) := by
  intro c _ hw
  exact ⟨by simp [encode], by simpa [encode, Instr.wellFormed] using hw⟩

theorem displayWrite (payload : List Byte) : Statement (.displayWrite payload) := by
  intro c _ hw
  exact ⟨by simp [encode], by simpa [encode, Instr.wellFormed] using hw⟩

theorem interrupt (extra : List Byte) : Statement (.interrupt extra) := by
  intro c _ hw
  exact ⟨by simp [encode], by simpa [encode, Instr.wellFormed] using hw⟩

theorem drop (packet : Packet) : Statement (.drop packet) := by
  intro c _ hw
  simp only [Instr.wellFormed, Bool.and_eq_true, decide_eq_true_eq] at hw
  exact hw.1

theorem termspecReply (ident : List Byte) : Statement (.termspecReply ident) := by
  intro c hc hw
  simp only [Instr.wellFormed, Bool.and_eq_true, decide_eq_true_eq] at hw
  exact ⟨by simp [encode], le_rx_cap hc (by simpa [encode] using hw.2)⟩

theorem keysReply (keys : List Byte) : Statement (.keysReply keys) := by
  intro c hc hw
  simp only [Instr.wellFormed, Bool.and_eq_true, decide_eq_true_eq] at hw
  exact ⟨by simp [encode], le_rx_cap hc (by simpa [encode] using hw.2)⟩

theorem ackReply : Statement .ackReply := by
  intro c hc hw
  exact ⟨by simp [encode], le_rx_cap hc (by simpa [encode, Instr.wellFormed] using hw)⟩

theorem endEmptyFrame : Statement .endEmptyFrame := fun _ hc _ => ⟨le_rfl, one_le_rx_cap hc⟩
theorem endOfFrame : Statement .endOfFrame := fun _ hc _ => ⟨le_rfl, one_le_rx_cap hc⟩
theorem esc : Statement .esc := fun _ hc _ => ⟨le_rfl, one_le_rx_cap hc⟩
theorem literal (b : Byte) : Statement (.literal b) := fun _ hc _ => ⟨le_rfl, one_le_rx_cap hc⟩
theorem escEnd : Statement .escEnd := fun _ hc _ => ⟨le_rfl, one_le_rx_cap hc⟩
theorem escEsc : Statement .escEsc := fun _ hc _ => ⟨le_rfl, one_le_rx_cap hc⟩
theorem endAfterEsc : Statement .endAfterEsc := fun _ hc _ => ⟨le_rfl, one_le_rx_cap hc⟩
theorem badEscape (b : Byte) : Statement (.badEscape b) := fun _ hc _ => ⟨le_rfl, one_le_rx_cap hc⟩
theorem endResync : Statement .endResync := fun _ hc _ => ⟨le_rfl, one_le_rx_cap hc⟩
theorem discarded (b : Byte) : Statement (.discarded b) := fun _ hc _ => ⟨le_rfl, one_le_rx_cap hc⟩

end Sys2Proof.Laws.EncodeFits
end

