-- ==== Sys2Proof/Tests/Slice0.lean ====
section
/-! SUPPORT. Tests. Expected values are written out from spec/: the encodings of spec/30_encoding.md and
spec/opcode_table.json, the vectors of spec/95_test_vectors.md (their ids stand in the comments), the constraints of R6.
Then, for every statement with hypotheses, a concrete state and operands that meet them. -/

namespace Sys2Proof.Tests

open Sys2Proof Sys2Proof.Machine Sys2Proof.Config

/-! ## Helpers -/

/-- The reset state of a configuration with bytes held, keys held and a decoder state. -/
def stateOf (c : Config) (held keys : List Byte) (m : RxState) : State :=
  { State.resetWith c with rx := Buffer.ofBytes held, kb := Buffer.ofBytes keys, rxState := m }

/-- The same with one byte about to arrive. -/
def receiving (b : Byte) (draw : Option Nat) (s : State) : State := { s with inputs := [.rxByte b draw] }

/-- The state halted by INTERRUPT. -/
def haltedOf (s : State) : State := { s with run := .halted, haltCause := .interrupt }

/-- A view of the next state; `none` where there is none. -/
def seen {α : Type} (f : State → α) : Host.Outcome State Fault Refusal → Option α
  | .next s => some (f s)
  | .fault _ => none
  | .refused _ => none

/-- The length, the decoder state and the bytes held. -/
def rxView (s : State) : Nat × RxState × Option (List Byte) := (s.rx.len, s.rxState, s.rx.bytes)

/-- The four flags, in the order of R21: `f_esc_err`, `f_rx_ovf`, `f_kb_ovf`, `f_drop`. -/
def flags (s : State) : List Bool := [s.fEscErr, s.fRxOvf, s.fKbOvf, s.fDrop]

/-- What went out: to the transport, to the display. -/
def outView (s : State) : List Byte × List Byte := (s.txOut, s.dispOut)

/-- Six bytes: a full receive buffer of `CFG_TINY`. -/
def six : List Byte := [0x02#8, 0x02#8, 0x41#8, 0x42#8, 0x43#8, 0x44#8]

/-! ## WellFormed: an ill-formed term for each check -/

theorem test_wf_termspecQuery_too_long :
    (Instr.termspecQuery [1#8, 2#8, 3#8, 4#8, 5#8]).wellFormed cfgTiny = false := by decide
theorem test_wf_keyPoll_too_long : (Instr.keyPoll [1#8, 2#8, 3#8, 4#8, 5#8]).wellFormed cfgTiny = false := by decide
theorem test_wf_displayWrite_too_long :
    (Instr.displayWrite [1#8, 2#8, 3#8, 4#8, 5#8]).wellFormed cfgTiny = false := by decide
theorem test_wf_interrupt_too_long : (Instr.interrupt [1#8, 2#8, 3#8, 4#8, 5#8]).wellFormed cfgTiny = false := by decide
theorem test_wf_request_at_capacity : (Instr.displayWrite [1#8, 2#8, 3#8, 4#8]).wellFormed cfgTiny = true := by decide
theorem test_wf_drop_empty : (Instr.drop []).wellFormed cfgTiny = false := by decide
theorem test_wf_drop_too_long : (Instr.drop [9#8, 9#8, 3#8, 4#8, 5#8, 6#8, 7#8]).wellFormed cfgTiny = false := by decide
theorem test_wf_drop_is_a_request : (Instr.drop [0x03#8, 0x03#8]).wellFormed cfgTiny = false := by decide
theorem test_wf_termspecReply_other_string : (Instr.termspecReply [0x75#8]).wellFormed cfgTiny = false := by decide
theorem test_wf_termspecReply_too_long :
    (Instr.termspecReply [1#8, 2#8, 3#8, 4#8, 5#8]).wellFormed { cfgTiny with TERMSPEC_ID := [1#8, 2#8, 3#8, 4#8, 5#8] } = false := by
  decide
theorem test_wf_keysReply_over_capacity : (Instr.keysReply [1#8, 2#8, 3#8]).wellFormed cfgTiny = false := by decide
theorem test_wf_keysReply_over_packet :
    (Instr.keysReply [1#8, 2#8]).wellFormed { cfgTiny with MAX_PACKET := 3 } = false := by decide
theorem test_wf_ackReply_over_packet : Instr.ackReply.wellFormed { cfgTiny with MAX_PACKET := 1 } = false := by decide
theorem test_wf_literal_end : (Instr.literal 0xC0#8).wellFormed cfgTiny = false := by decide
theorem test_wf_literal_esc : (Instr.literal 0xDB#8).wellFormed cfgTiny = false := by decide
theorem test_wf_badEscape_end : (Instr.badEscape 0xC0#8).wellFormed cfgTiny = false := by decide
theorem test_wf_badEscape_esc_end : (Instr.badEscape 0xDC#8).wellFormed cfgTiny = false := by decide
theorem test_wf_badEscape_esc_esc : (Instr.badEscape 0xDD#8).wellFormed cfgTiny = false := by decide
theorem test_wf_discarded_end : (Instr.discarded 0xC0#8).wellFormed cfgTiny = false := by decide

/-- R6, one configuration for each constraint it breaks. -/
theorem test_cfg_framing_bytes_equal : ¬ { cfgTiny with ESC_ESC := 0xC0#8 }.Ok := by decide
theorem test_cfg_tag_is_interrupt : ¬ { cfgTiny with T_KEY_POLL := 0x03#8 }.Ok := by decide
theorem test_cfg_tag_is_unknown : ¬ { cfgTiny with T_KEY_POLL := 0x09#8 }.Ok := by decide
theorem test_cfg_packet_over_buffer : ¬ { cfgTiny with RX_CAP := 5 }.Ok := by decide
theorem test_cfg_packet_too_small : ¬ { cfgTiny with MAX_PACKET := 1 }.Ok := by decide
theorem test_cfg_no_keys : ¬ { cfgTiny with KB_CAP := 0 }.Ok := by decide
theorem test_cfg_keys_over_packet : ¬ { cfgTiny with KB_CAP := 5 }.Ok := by decide
theorem test_cfg_string_over_packet : ¬ { cfgTiny with TERMSPEC_ID := [1#8, 2#8, 3#8, 4#8, 5#8] }.Ok := by decide
/-- R7: both named configurations meet R6; a tag may equal a framing byte (the header is escaped like any bytes). -/
theorem test_cfg_named_ok : cfgDefault.Ok ∧ cfgTiny.Ok ∧ { cfgTiny with T_KEY_POLL := 0xC0#8 }.Ok := by decide

/-! ## Decoding: every constructor from its encoding, written out (R48, R51, R52, R78) -/

theorem test_decode_termspecQuery :
    decodePacket cfgDefault [0x05#8, 0x05#8, 0xFF#8] = .ok (.termspecQuery [0xFF#8]) := by decide
theorem test_decode_keyPoll : decodePacket cfgDefault [0x11#8, 0x11#8] = .ok (.keyPoll []) := by decide
theorem test_decode_displayWrite :
    decodePacket cfgDefault [0x02#8, 0x02#8, 0x68#8, 0x69#8] = .ok (.displayWrite [0x68#8, 0x69#8]) := by decide
theorem test_decode_interrupt :
    decodePacket cfgDefault [0x03#8, 0x03#8, 0x41#8, 0x42#8] = .ok (.interrupt [0x41#8, 0x42#8]) := by decide
theorem test_decode_drop_unknown : decodePacket cfgDefault [0x09#8, 0x09#8] = .ok (.drop [0x09#8, 0x09#8]) := by decide
theorem test_decode_drop_short : decodePacket cfgDefault [0x03#8] = .ok (.drop [0x03#8]) := by decide
theorem test_decode_drop_mismatch : decodePacket cfgDefault [0x03#8, 0x02#8] = .ok (.drop [0x03#8, 0x02#8]) := by decide
theorem test_decode_empty_packet : decodePacket cfgDefault [] = .error .emptyPacket := by decide
theorem test_decode_termspecReply :
    decodeReply cfgDefault [0x05#8, 0x05#8, 0x75#8, 0x74#8, 0x65#8, 0x72#8, 0x6D#8] =
      .ok (.termspecReply [0x75#8, 0x74#8, 0x65#8, 0x72#8, 0x6D#8]) := by decide
theorem test_decode_keysReply :
    decodeReply cfgDefault [0x11#8, 0x11#8, 0x61#8, 0x62#8, 0x63#8] =
      .ok (.keysReply [0x61#8, 0x62#8, 0x63#8]) := by decide
theorem test_decode_ackReply : decodeReply cfgDefault [0x02#8, 0x02#8] = .ok .ackReply := by decide
theorem test_decode_reply_errors :
    decodeReply cfgDefault [] = .error .emptyPacket ∧ decodeReply cfgDefault [0x02#8] = .error .shortReply ∧
    decodeReply cfgDefault [0x02#8, 0x05#8] = .error .headerMismatch ∧
    decodeReply cfgDefault [0x09#8, 0x09#8] = .error .unknownReply ∧
    decodeReply cfgDefault [0x03#8, 0x03#8] = .error .interruptHasNoReply ∧
    decodeReply cfgDefault [0x02#8, 0x02#8, 0x68#8] = .error .ackWithPayload := by decide
theorem test_decode_normal :
    decodeSymbol cfgDefault .normal 0 0xC0#8 = .endEmptyFrame ∧ decodeSymbol cfgDefault .normal 1 0xC0#8 = .endOfFrame ∧
    decodeSymbol cfgDefault .normal 0 0xDB#8 = .esc ∧ decodeSymbol cfgDefault .normal 0 0x41#8 = .literal 0x41#8 ∧
    decodeSymbol cfgDefault .normal 0 0xDC#8 = .literal 0xDC#8 ∧ decodeSymbol cfgDefault .normal 0 0xDD#8 = .literal 0xDD#8 := by
  decide
theorem test_decode_esc :
    decodeSymbol cfgDefault .esc 2 0xDC#8 = .escEnd ∧ decodeSymbol cfgDefault .esc 2 0xDD#8 = .escEsc ∧
    decodeSymbol cfgDefault .esc 2 0xC0#8 = .endAfterEsc ∧ decodeSymbol cfgDefault .esc 0 0xC0#8 = .endAfterEsc ∧
    decodeSymbol cfgDefault .esc 2 0xDB#8 = .badEscape 0xDB#8 ∧ decodeSymbol cfgDefault .esc 2 0x41#8 = .badEscape 0x41#8 := by
  decide
theorem test_decode_discard :
    decodeSymbol cfgDefault .discard 0 0xC0#8 = .endResync ∧ decodeSymbol cfgDefault .discard 0 0xDB#8 = .discarded 0xDB#8 ∧
    decodeSymbol cfgDefault .discard 0 0x41#8 = .discarded 0x41#8 := by decide

/-- The table's words, as spec/opcode_table.json numbers their bits (log entry 11). -/
theorem test_table_requests :
    decodeTableWord 16 0x0505 = some (.termspecQuery []) ∧ decodeTableWord 16 0x1111 = some (.keyPoll []) ∧
    decodeTableWord 16 0x0202 = some (.displayWrite []) ∧ decodeTableWord 16 0x0303 = some (.interrupt []) ∧
    decodeTableWord 16 0x0909 = some (.drop [0x09#8, 0x09#8]) ∧
    decodeTableWord 16 0x0305 = some (.drop [0x03#8, 0x05#8]) ∧
    decodeTableWord 24 0x680202 = some (.displayWrite [0x68#8]) ∧
    decodeTableWord 24 0 = some (.drop [0#8, 0#8, 0#8]) := by decide
theorem test_table_symbols :
    decodeTableWord 8 0xC0 = some .endEmptyFrame ∧ decodeTableWord 8 0xDB = some .esc ∧
    decodeTableWord 8 0x41 = some (.literal 0x41#8) ∧ decodeTableWord 8 0xDC = some .escEnd ∧
    decodeTableWord 8 0xDD = some .escEsc ∧ decodeTableWord 16 0xC0 = some .endEmptyFrame ∧
    decodeTableWord 16 0 = some (.literal 0#8) := by decide
/-- The next step runs the placed word: P1 and DV1 of spec/95_test_vectors.md. -/
theorem test_fetch_word_termspec :
    seen outView (step (State.reset.withFetchWord 16 0x0505)) =
      some ([0x05#8, 0x05#8, 0x75#8, 0x74#8, 0x65#8, 0x72#8, 0x6D#8, 0xC0#8], []) := by decide
theorem test_fetch_word_escEnd :
    seen rxView (step (State.reset.withFetchWord 8 0xDC)) = some (1, .normal, some [0xC0#8]) := by decide

/-! ## The encoder: E1 to E5, E7 -/

theorem test_frame_E1 : frame cfgDefault [0x02#8, 0x02#8] = [0x02#8, 0x02#8, 0xC0#8] := by decide
theorem test_frame_E2 :
    frame cfgDefault [0x11#8, 0x11#8, 0xC0#8, 0xDB#8, 0x41#8] =
      [0x11#8, 0x11#8, 0xDB#8, 0xDC#8, 0xDB#8, 0xDD#8, 0x41#8, 0xC0#8] := by decide
theorem test_frame_E3 : frame cfgDefault [0xC0#8, 0xC0#8] = [0xDB#8, 0xDC#8, 0xDB#8, 0xDC#8, 0xC0#8] := by decide
theorem test_frame_E4 : frame cfgDefault [0xDC#8, 0xDD#8] = [0xDC#8, 0xDD#8, 0xC0#8] := by decide
theorem test_frame_E5 :
    frame cfgDefault [0x11#8, 0x11#8, 0xDB#8, 0xDC#8] = [0x11#8, 0x11#8, 0xDB#8, 0xDD#8, 0xDC#8, 0xC0#8] := by decide
theorem test_frame_E7 : frame cfgDefault [] = [0xC0#8] := by decide

/-! ## One step each -/

/-- P1, and P9: an extra byte is ignored. -/
theorem test_termspecQuery_P1 :
    seen outView (step (receiving 0xC0#8 none (stateOf cfgDefault [0x05#8, 0x05#8, 0xFF#8] [] .normal))) =
      some ([0x05#8, 0x05#8, 0x75#8, 0x74#8, 0x65#8, 0x72#8, 0x6D#8, 0xC0#8], []) := by decide
/-- P11: keys that equal framing bytes are escaped, a typed 03 is only a key. -/
theorem test_keyPoll_P11 :
    seen (fun t => (t.txOut, t.kb.len, t.run))
      (step (receiving 0xC0#8 none (stateOf cfgDefault [0x11#8, 0x11#8] [0xC0#8, 0xDB#8, 0x03#8, 0xDC#8] .normal))) =
      some ([0x11#8, 0x11#8, 0xDB#8, 0xDC#8, 0xDB#8, 0xDD#8, 0x03#8, 0xDC#8, 0xC0#8], 0, .running) := by decide
/-- X2: three of five bytes go out, the FIFO is not drained. -/
theorem test_keyPoll_X2 :
    seen (fun t => (t.txOut, t.kb.bytes, t.haltCause))
      (step (receiving 0xC0#8 (some 3) (stateOf cfgDefault [0x11#8, 0x11#8] [0x61#8, 0x62#8] .normal))) =
      some ([0x11#8, 0x11#8, 0x61#8], some [0x61#8, 0x62#8], .xport) := by decide
/-- P12: bytes are displayed as they are; R44: all of them before the acknowledgment. -/
theorem test_displayWrite_P12 :
    seen State.trace (step (receiving 0xC0#8 none (stateOf cfgDefault [0x02#8, 0x02#8, 0xC0#8, 0x03#8] [] .normal))) =
      some [.disp 0xC0#8, .disp 0x03#8, .tx 0x02#8, .tx 0x02#8, .tx 0xC0#8] := by decide
/-- X3: the display bytes are written although the acknowledgment fails. -/
theorem test_displayWrite_X3 :
    seen (fun t => (outView t, t.run, t.haltCause))
      (step (receiving 0xC0#8 (some 0) (stateOf cfgDefault [0x02#8, 0x02#8, 0x68#8, 0x69#8] [] .normal))) =
      some (([], [0x68#8, 0x69#8]), .halted, .xport) := by decide
/-- P10, P13: no reply, the keys stay. -/
theorem test_interrupt_P10 :
    seen (fun t => (outView t, t.run, t.haltCause, t.kb.bytes))
      (step (receiving 0xC0#8 none (stateOf cfgDefault [0x03#8, 0x03#8, 0x41#8] [0x61#8] .normal))) =
      some (([], []), .halted, .interrupt, some [0x61#8]) := by decide
/-- P6, P7: 03 alone and 03 02 halt nothing. -/
theorem test_drop_P6 :
    seen (fun t => (flags t, t.run, t.raisedOut)) (step (receiving 0xC0#8 none (stateOf cfgDefault [0x03#8] [] .normal))) =
      some ([false, false, false, true], .running, [.protocolDrop .short]) := by decide
theorem test_drop_P7 :
    seen (fun t => (flags t, t.run, t.raisedOut))
      (step (receiving 0xC0#8 none (stateOf cfgDefault [0x03#8, 0x02#8] [] .normal))) =
      some ([false, false, false, true], .running, [.protocolDrop .mismatch]) := by decide
/-- R52: the three replies, the tag twice and then the payload. -/
theorem test_termspecReply_row :
    seen outView (exec (.termspecReply [0x75#8, 0x74#8]) (State.resetWith cfgTiny)) =
      some ([0x05#8, 0x05#8, 0x75#8, 0x74#8, 0xC0#8], []) := by decide
theorem test_keysReply_row :
    seen (fun t => (t.txOut, t.kb.len)) (exec (.keysReply [0x61#8]) (stateOf cfgTiny [] [0x61#8] .normal)) =
      some ([0x11#8, 0x11#8, 0x61#8, 0xC0#8], 1) := by decide
theorem test_ackReply_row :
    seen outView (exec .ackReply (State.resetWith cfgTiny)) = some ([0x02#8, 0x02#8, 0xC0#8], []) := by decide
/-- DV1. -/
theorem test_endEmptyFrame_DV1 :
    seen (fun t => (rxView t, flags t)) (step (receiving 0xC0#8 none (State.resetWith cfgDefault))) =
      some ((0, .normal, some []), [false, false, false, false]) := by decide
/-- DV11: a completely full buffer is delivered. -/
theorem test_endOfFrame_DV11 :
    seen (fun t => (outView t, rxView t)) (step (receiving 0xC0#8 none (stateOf cfgTiny six [] .normal))) =
      some (([0x02#8, 0x02#8, 0xC0#8], [0x41#8, 0x42#8, 0x43#8, 0x44#8]), 0, .normal, some []) := by decide
/-- DV3. -/
theorem test_esc_DV3 :
    seen rxView (step (receiving 0xDB#8 none (stateOf cfgDefault [0x02#8, 0x02#8] [] .normal))) =
      some (2, .esc, some [0x02#8, 0x02#8]) := by decide
/-- DV4: a substitution byte outside an escape is data. -/
theorem test_literal_DV4 :
    seen rxView (step (receiving 0xDC#8 none (State.resetWith cfgDefault))) =
      some (1, .normal, some [0xDC#8]) := by decide
/-- DV12: the seventh byte. -/
theorem test_literal_DV12 :
    seen (fun t => (rxView t, flags t)) (step (receiving 0x45#8 none (stateOf cfgTiny six [] .normal))) =
      some ((0, .discard, some []), [false, true, false, false]) := by decide
/-- DV5. -/
theorem test_escEnd_DV5 :
    seen rxView (step (receiving 0xDC#8 none (stateOf cfgDefault [] [] .esc))) =
      some (1, .normal, some [0xC0#8]) := by decide
/-- DV14: a valid escape into a full buffer. -/
theorem test_escEnd_DV14 :
    seen (fun t => (rxView t, flags t)) (step (receiving 0xDC#8 none (stateOf cfgTiny six [] .esc))) =
      some ((0, .discard, some []), [false, true, false, false]) := by decide
/-- DV6. -/
theorem test_escEsc_DV6 :
    seen rxView (step (receiving 0xDD#8 none (stateOf cfgDefault [] [] .esc))) =
      some (1, .normal, some [0xDB#8]) := by decide
/-- DV7, its fourth byte. -/
theorem test_endAfterEsc_DV7 :
    seen (fun t => (rxView t, flags t)) (step (receiving 0xC0#8 none (stateOf cfgDefault [0x02#8, 0x02#8] [] .esc))) =
      some ((0, .normal, some []), [true, false, false, false]) := by decide
/-- DV10, its fourth byte: ESC ESC opens no new escape. -/
theorem test_badEscape_DV10 :
    seen (fun t => (rxView t, flags t)) (step (receiving 0xDB#8 none (stateOf cfgDefault [0x02#8, 0x02#8] [] .esc))) =
      some ((0, .discard, some []), [true, false, false, false]) := by decide
/-- DV15: an invalid escape at a full buffer sets `f_esc_err` only. -/
theorem test_badEscape_DV15 :
    seen (fun t => (rxView t, flags t)) (step (receiving 0x41#8 none (stateOf cfgTiny six [] .esc))) =
      some ((0, .discard, some []), [true, false, false, false]) := by decide
/-- R76, its example. -/
theorem test_endResync_R76 :
    seen (fun t => (rxView t, flags t)) (step (receiving 0xC0#8 none (stateOf cfgDefault [] [] .discard))) =
      some ((0, .normal, some []), [false, false, false, false]) := by decide
/-- DV17: ESC is not processed while discarding. -/
theorem test_discarded_DV17 :
    seen rxView (step (receiving 0xDB#8 none (stateOf cfgTiny [] [] .discard))) =
      some (0, .discard, some []) := by decide

/-- K1, its third key: at capacity the new key is refused. -/
theorem test_key_K1 :
    seen (fun t => (t.kb.bytes, flags t)) (step { stateOf cfgTiny [] [0x61#8, 0x62#8] .normal with inputs := [.key 0x63#8] }) =
      some (some [0x61#8, 0x62#8], [false, false, true, false]) := by decide
/-- R116, its example. -/
theorem test_key_R116 :
    seen (fun t => (t.kb.bytes, t.kb.len)) (step { State.reset with inputs := [.key 0x61#8] }) =
      some (some [0x61#8], 1) := by decide
/-- X1: in the middle of a frame; the bytes held stay. -/
theorem test_xportFail_X1 :
    seen (fun t => (rxView t, t.run, t.haltCause))
      (step { stateOf cfgDefault [0x11#8, 0x11#8] [0x61#8] .normal with inputs := [.xportFail] }) =
      some ((2, .normal, some [0x11#8, 0x11#8]), .halted, .xport) := by decide
/-- X5: the first cause is kept. -/
theorem test_xportFail_X5 :
    seen State.haltCause (step { haltedOf State.reset with inputs := [.xportFail] }) = some .interrupt := by decide
/-- Z1, Z2: from the middle of a frame and from HALTED. -/
theorem test_reset_Z1 :
    seen (fun t => (rxView t, t.kb.len, t.haltCause))
      (step { haltedOf (stateOf cfgDefault [0x02#8] [0x61#8] .esc) with inputs := [.reset] }) =
      some ((0, .normal, some []), 0, .none) := by decide
/-- Z2: the streams start again. -/
theorem test_reset_Z2 :
    seen outView (step { haltedOf State.reset with inputs := [.reset], trace := [.tx 0x05#8, .disp 0x41#8] }) = some ([], []) := by
  decide

/-! ## Memory -/

theorem test_memory_write_sorts :
    Memory.write 1 0x0A#8 [(0, 0x01#8), (2, 0x03#8)] = [(0, 0x01#8), (1, 0x0A#8), (2, 0x03#8)] := by decide
theorem test_memory_overwrite :
    Memory.write 2 0x0A#8 [(0, 0x01#8), (2, 0x03#8)] = [(0, 0x01#8), (2, 0x0A#8)] := by decide
theorem test_memory_not_canonical :
    Memory.wf [(2, 0x01#8), (0, 0x03#8)] = false ∧ Memory.wf [(1, 0x01#8), (1, 0x03#8)] = false := by decide

/-- U9: a cell without a value is never read as a number (a state no run reaches). -/
theorem test_unwritten_cell_faults :
    exec .endOfFrame { State.reset with rx := ⟨[], 1⟩ } = .fault .cellWithoutValue ∧
    exec (.keyPoll []) { State.reset with kb := ⟨[], 1⟩ } = .fault .cellWithoutValue := ⟨rfl, rfl⟩

/-! ## Witnesses: the hypotheses of each statement are met -/

/-- Room for `n` bytes exactly. -/
theorem room_exact (s : State) (n : Nat) (h : s.txRoom = some n) : s.RoomFor n := by
  intro k hk
  rw [h] at hk
  cases hk
  exact le_rfl

/-- Room for any number of bytes. -/
theorem room_unlimited (s : State) (n : Nat) (h : s.txRoom = none) : s.RoomFor n := by
  intro k hk
  rw [h] at hk
  cases hk

/-- No `Reset` is pending. -/
theorem not_reset (e : Event) (es rest : List Event) (h : e ≠ .reset) : e :: es ≠ .reset :: rest := by
  intro hs
  cases hs
  exact h rfl

theorem witness_reset_event :
    let s := { haltedOf (stateOf cfgTiny six [0x61#8] .esc) with inputs := [.reset, .key 0x62#8], fDrop := true }
    s.cfg.Ok ∧ s.inputs = .reset :: [.key 0x62#8] := by decide
theorem witness_invariant_at_reset : cfgDefault.Ok ∧ cfgTiny.Ok := by decide
theorem witness_step_runs_decoded_byte :
    let s := receiving 0x41#8 (some 3) (stateOf cfgTiny [0x02#8] [0x61#8] .normal)
    let h := haltedOf s
    (s.cfg.Ok ∧ s.inputs = .rxByte 0x41#8 (some 3) :: [] ∧ s.run = .running) ∧
    (h.cfg.Ok ∧ h.inputs = .rxByte 0x41#8 (some 3) :: [] ∧ h.run = .halted) := by decide
theorem witness_ill_formed_config : ¬ (State.resetWith { cfgTiny with KB_CAP := 5 }).cfg.Ok := by decide
theorem witness_quiet_arms :
    let s := stateOf cfgTiny [] [0x61#8] .normal
    let f := stateOf cfgTiny six [] .normal
    let d := stateOf cfgTiny [] [] .discard
    (s.cfg.Ok ∧ s.rxState = .normal ∧ s.rx.len = 0 ∧ 0xC0#8 = s.cfg.END) ∧
    (f.cfg.Ok ∧ f.rxState = .normal ∧ f.rx.len = f.cfg.RX_CAP ∧ 0xDB#8 = f.cfg.ESC) ∧
    (d.cfg.Ok ∧ d.rxState = .discard ∧ 0xC0#8 = d.cfg.END) ∧
    (d.cfg.Ok ∧ d.rxState = .discard ∧ 0xDB#8 ≠ d.cfg.END) := by decide
/-- One byte of room, and none, in both decoder states that store. -/
theorem witness_storing_arms :
    let n := stateOf cfgTiny [1#8, 2#8, 3#8, 4#8, 5#8] [] .normal
    let e := stateOf cfgTiny [1#8, 2#8, 3#8, 4#8, 5#8] [] .esc
    let nf := stateOf cfgTiny six [] .normal
    let ef := stateOf cfgTiny six [] .esc
    (n.cfg.Ok ∧ n.rxState = .normal ∧ 0xDC#8 ≠ n.cfg.END ∧ 0xDC#8 ≠ n.cfg.ESC ∧ n.rx.len + 1 = n.cfg.RX_CAP) ∧
    (e.cfg.Ok ∧ e.rxState = .esc ∧ 0xDC#8 = e.cfg.ESC_END ∧ 0xDD#8 = e.cfg.ESC_ESC ∧ e.rx.len + 1 = e.cfg.RX_CAP) ∧
    (nf.rxState = .normal ∧ nf.rx.len = nf.cfg.RX_CAP) ∧ (ef.rxState = .esc ∧ ef.rx.len = ef.cfg.RX_CAP) := by decide
theorem witness_framing_errors :
    let s := stateOf cfgTiny six [0x61#8] .esc
    s.cfg.Ok ∧ s.rxState = .esc ∧
    (0xC0#8 ≠ s.cfg.ESC_END ∧ 0xC0#8 ≠ s.cfg.ESC_ESC ∧ 0xC0#8 = s.cfg.END) ∧
    (0xDB#8 ≠ s.cfg.ESC_END ∧ 0xDB#8 ≠ s.cfg.ESC_ESC ∧ 0xDB#8 ≠ s.cfg.END) := by decide
/-- Both sides of the equivalence hold of an arm with a condition of its own. -/
theorem witness_arm_selection :
    cfgTiny.Ok ∧ decodeSymbol cfgTiny .esc 3 0x41#8 = .badEscape 0x41#8 ∧
    (Instr.badEscape 0x41#8).inLayer (.symbol .esc 3) = true ∧ (Instr.badEscape 0x41#8).wellFormed cfgTiny =
      true := by decide
/-- One byte held, and a full buffer. -/
theorem witness_end_of_frame :
    let s := stateOf cfgTiny [0x03#8] [0x61#8] .normal
    let f := stateOf cfgTiny six [0x61#8] .normal
    (s.cfg.Ok ∧ s.rxState = .normal ∧ 0 < s.rx.len ∧ s.rx.bytes = some [0x03#8] ∧ s.kb.bytes = some [0x61#8]) ∧
    (f.cfg.Ok ∧ f.rxState = .normal ∧ f.rx.len = f.cfg.RX_CAP ∧ f.rx.bytes = some six ∧ f.kb.bytes =
      some [0x61#8]) := by decide
/-- A packet for each clause of the selection. -/
theorem witness_dispatch_order :
    cfgTiny.Ok ∧
    (stateOf cfgTiny [0x03#8] [] .normal).rx.bytes = some [0x03#8] ∧
    (stateOf cfgTiny [0x03#8, 0x02#8] [] .normal).rx.bytes = some [0x03#8, 0x02#8] ∧
    (stateOf cfgTiny [0x05#8, 0x05#8] [] .normal).rx.bytes = some [cfgTiny.T_TERMSPEC_QUERY, cfgTiny.T_TERMSPEC_QUERY] ∧
    (stateOf cfgTiny [0x11#8, 0x11#8] [] .normal).rx.bytes = some [cfgTiny.T_KEY_POLL, cfgTiny.T_KEY_POLL] ∧
    (stateOf cfgTiny six [] .normal).rx.bytes =
      some (cfgTiny.T_DISPLAY_WRITE :: cfgTiny.T_DISPLAY_WRITE :: [0x41#8, 0x42#8, 0x43#8, 0x44#8]) ∧
    (stateOf cfgTiny [0x03#8, 0x03#8] [] .normal).rx.bytes = some [0x03#8, 0x03#8] ∧
    (stateOf cfgTiny [0x09#8, 0x09#8] [] .normal).rx.bytes = some [0x09#8, 0x09#8] ∧
    0x09#8 ∉ [cfgTiny.T_TERMSPEC_QUERY, cfgTiny.T_KEY_POLL, cfgTiny.T_DISPLAY_WRITE, 0x03#8] := by decide
/-- Exactly enough room, no limit, one byte short, and none at all. -/
theorem witness_termspecQuery :
    let s := stateOf cfgTiny [] [0x61#8] .normal
    let n := (frame s.cfg ([s.cfg.T_TERMSPEC_QUERY, s.cfg.T_TERMSPEC_QUERY] ++ s.cfg.TERMSPEC_ID)).length
    { s with txRoom := some n }.RoomFor n ∧ s.RoomFor n ∧ 4 < n ∧ 0 < n ∧ n = 5 :=
  ⟨room_exact _ _ rfl, room_unlimited _ _ rfl, by decide, by decide, by decide⟩
theorem witness_keyPoll :
    let s := stateOf cfgTiny [] [0xC0#8, 0x62#8] .normal
    let n := (frame s.cfg ([s.cfg.T_KEY_POLL, s.cfg.T_KEY_POLL] ++ [0xC0#8, 0x62#8])).length
    s.Inv ∧ s.kb.bytes = some [0xC0#8, 0x62#8] ∧ s.kb.len = s.cfg.KB_CAP ∧ { s with txRoom := some n }.RoomFor n ∧
    s.RoomFor n ∧ 3 < n ∧ n = 6 :=
  ⟨by decide, by decide, by decide, room_exact _ _ rfl, room_unlimited _ _ rfl, by decide, by decide⟩
theorem witness_displayWrite :
    let s := stateOf cfgTiny [] [] .normal
    let n := (frame s.cfg [s.cfg.T_DISPLAY_WRITE, s.cfg.T_DISPLAY_WRITE]).length
    { s with txRoom := some n }.RoomFor n ∧ s.RoomFor n ∧ 2 < n ∧ 0 < n ∧ n = 3 :=
  ⟨room_exact _ _ rfl, room_unlimited _ _ rfl, by decide, by decide, by decide⟩
theorem witness_interrupt :
    (stateOf cfgTiny [] [0x61#8] .normal).cfg.Ok ∧
    Event.reset ∉ [.rxByte 0x05#8 none, .key 0x61#8, .xportFail, .rxByte 0xC0#8 (some 1)] := by decide
/-- A packet for each reason. -/
theorem witness_drop :
    [0x03#8].length < 2 ∧ (0x03#8 ≠ 0x02#8 ∧ [0x03#8, 0x02#8] = 0x03#8 :: 0x02#8 :: ([] : List Byte)) ∧
    [0x09#8, 0x09#8, 0x41#8] = 0x09#8 :: 0x09#8 :: [0x41#8] := by decide
theorem witness_reply_rows :
    let s := stateOf cfgTiny [] [0x61#8] .normal
    { s with txRoom := some 5 }.RoomFor (frame s.cfg (encode s.cfg (.termspecReply [0x75#8, 0x74#8]))).length ∧
    s.RoomFor (frame s.cfg (encode s.cfg (.keysReply [0x61#8]))).length ∧
    2 < (frame s.cfg (encode s.cfg .ackReply)).length :=
  ⟨room_exact _ _ rfl, room_unlimited _ _ rfl, by decide⟩
theorem witness_header_value :
    cfgTiny.Ok ∧ header 0x03#8 0x03#8 = 0x0303#16 ∧ header 0x03#8 0x02#8 = 0x0302#16 ∧
    header 0x05#8 0x05#8 = header cfgTiny.T_TERMSPEC_QUERY cfgTiny.T_TERMSPEC_QUERY := by decide
/-- The last free cell, a full FIFO, and a halted block. -/
theorem witness_key :
    let s := { stateOf cfgTiny [0x02#8] [0x61#8] .esc with inputs := [.key 0x62#8, .reset] }
    let f := { stateOf cfgTiny [] [0x61#8, 0x62#8] .normal with inputs := [.key 0x63#8] }
    (s.cfg.Ok ∧ s.inputs = .key 0x62#8 :: [.reset] ∧ s.run = .running ∧ s.kb.len + 1 = s.cfg.KB_CAP) ∧
    (f.cfg.Ok ∧ f.inputs = .key 0x63#8 :: [] ∧ f.run = .running ∧ f.kb.len = f.cfg.KB_CAP) ∧
    ((haltedOf s).cfg.Ok ∧ (haltedOf s).inputs = .key 0x62#8 :: [.reset] ∧ (haltedOf s).run = .halted) := by decide
theorem witness_xportFail :
    let s := { stateOf cfgTiny [0x02#8] [0x61#8] .esc with inputs := [.xportFail, .reset] }
    (s.cfg.Ok ∧ s.inputs = .xportFail :: [.reset] ∧ s.run = .running) ∧
    ((haltedOf s).cfg.Ok ∧ (haltedOf s).inputs = .xportFail :: [.reset] ∧ (haltedOf s).run = .halted) := by decide
theorem witness_halted_ignores :
    let s := haltedOf (receiving 0xC0#8 none (stateOf cfgTiny six [0x61#8] .normal))
    s.cfg.Ok ∧ s.run = .halted ∧ s.inputs = .rxByte 0xC0#8 none :: [] ∧ Event.rxByte 0xC0#8 none ≠ .reset := by decide
/-- An arm of each group; the storing arms with one byte of room and with none. -/
theorem witness_symbol_rows_frame :
    let n := stateOf cfgTiny [1#8, 2#8, 3#8, 4#8, 5#8] [0x61#8] .normal
    let f := stateOf cfgTiny six [0x61#8] .esc
    (∃ t, exec .esc n = .next t ∧ Instr.esc.inLayer (.symbol .normal 5) = true) ∧
    (∃ t, exec (.literal 0x41#8) n = .next t ∧ (Instr.literal 0x41#8).inLayer (.symbol .normal 5) = true ∧
      n.rx.len + 1 = n.cfg.RX_CAP) ∧
    (∃ t, exec .escEsc f = .next t ∧ Instr.escEsc.inLayer (.symbol .esc 6) = true ∧ f.cfg.RX_CAP = f.rx.len) ∧
    (∃ t, exec .endAfterEsc f = .next t ∧ Instr.endAfterEsc.inLayer (.symbol .esc 6) = true) ∧
    (∃ t, exec (.badEscape 0x41#8) f = .next t ∧ (Instr.badEscape 0x41#8).inLayer (.symbol .esc 6) = true) :=
  ⟨⟨_, rfl, by decide⟩, ⟨_, rfl, by decide, by decide⟩, ⟨_, rfl, by decide, by decide⟩, ⟨_, rfl, by decide⟩, ⟨_, rfl, by decide⟩⟩
/-- A row of each group; the poll once drained and once cut. -/
theorem witness_packet_rows_frame :
    let s := stateOf cfgTiny [] [0x61#8] .normal
    let c := { s with txRoom := some 2 }
    (∃ t, exec (.keyPoll []) s = .next t ∧ t.kb.len = 0 ∧ (Instr.keyPoll []).inLayer .request = true) ∧
    (∃ t, exec (.keyPoll []) c = .next t ∧ t.run ≠ c.run) ∧
    (∃ t, exec (.displayWrite [0x68#8]) s = .next t ∧ t.dispOut = [0x68#8]) ∧
    (∃ t, exec (.interrupt []) s = .next t) ∧ (∃ t, exec (.drop [0x09#8, 0x09#8]) s = .next t) ∧
    (∃ t, exec .ackReply s = .next t ∧ Instr.ackReply.inLayer .reply = true) :=
  ⟨⟨_, rfl, by decide, by decide⟩, ⟨_, rfl, by decide⟩, ⟨_, rfl, by decide⟩, ⟨_, rfl⟩, ⟨_, rfl⟩, ⟨_, rfl, by decide⟩⟩
/-- Every constructor, well-formed in its layer. -/
theorem witness_decode_of_encode :
    cfgTiny.Ok ∧
    ([.termspecQuery [1#8, 2#8, 3#8, 4#8], .keyPoll [], .displayWrite [0xC0#8], .interrupt [0x41#8],
      .drop [0x09#8, 0x09#8, 3#8, 4#8, 5#8, 6#8]].all fun i : Instr => i.wellFormed cfgTiny && i.inLayer .request) = true ∧
    ([.termspecReply [0x75#8, 0x74#8], .keysReply [0x61#8, 0x62#8], .ackReply].all
      fun i : Instr => i.wellFormed cfgTiny && i.inLayer .reply) = true ∧
    ([.endOfFrame, .esc, .literal 0xDC#8].all
      fun i : Instr => i.wellFormed cfgTiny && i.inLayer (.symbol .normal 6)) = true ∧
    (Instr.endEmptyFrame.wellFormed cfgTiny && Instr.endEmptyFrame.inLayer (.symbol .normal 0)) = true ∧
    ([.escEnd, .escEsc, .endAfterEsc, .badEscape 0xDB#8].all
      fun i : Instr => i.wellFormed cfgTiny && i.inLayer (.symbol .esc 6)) = true ∧
    ([.endResync, .discarded 0xDB#8].all
      fun i : Instr => i.wellFormed cfgTiny && i.inLayer (.symbol .discard 0)) = true := by decide
theorem witness_encode_of_decode :
    cfgTiny.Ok ∧ decode cfgTiny (.symbol .esc 6) [0xDB#8] = .ok (.badEscape 0xDB#8) ∧
    decode cfgTiny .request six = .ok (.displayWrite [0x41#8, 0x42#8, 0x43#8, 0x44#8]) ∧ six.length = cfgTiny.RX_CAP ∧
    decode cfgTiny .reply [0x02#8, 0x02#8] = .ok .ackReply := by decide
/-- Lengths 1 and `RX_CAP`, and an escape inside a body. -/
theorem witness_frames :
    cfgTiny.Ok ∧ (1 ≤ [0xC0#8].length ∧ [0xC0#8].length ≤ cfgTiny.RX_CAP) ∧ (1 ≤ six.length ∧ six.length = cfgTiny.RX_CAP) ∧
    [0xC0#8].flatMap (escByte cfgTiny) = [] ++ cfgTiny.ESC :: [0xDC#8] := by decide
theorem witness_replies_fit :
    let s := stateOf cfgTiny [] [0x61#8, 0x62#8] .normal
    s.Inv ∧ s.kb.bytes = some [0x61#8, 0x62#8] ∧ s.kb.len = s.cfg.KB_CAP := by decide
theorem witness_stream_decoder :
    cfgTiny.Ok ∧ decodeSegments cfgTiny [0x02#8, 0xDB#8, 0xDC#8, 0xC0#8, 0x41#8] = [[0x02#8, 0xC0#8]] := by decide
theorem witness_damaged_over_long :
    cfgTiny.END ∉ [0xDB#8, 0xDC#8, 1#8, 2#8, 3#8, 4#8, 5#8, 6#8] ∧
    OverLong cfgTiny [0xDB#8, 0xDC#8, 1#8, 2#8, 3#8, 4#8, 5#8, 6#8] :=
  ⟨by decide, [0xC0#8, 1#8, 2#8, 3#8, 4#8, 5#8, 6#8], by decide, by decide⟩
theorem witness_damaged_escape :
    cfgTiny.END ∉ [0xDB#8, 0xDD#8, 0xDB#8, 0x41#8] ∧ HasInvalidEscape cfgTiny [0xDB#8, 0xDD#8, 0xDB#8, 0x41#8] :=
  ⟨by decide, [0xDB#8, 0xDD#8], [0xDB#8], 0x41#8, [], by decide, by decide, by decide, by decide⟩
/-- A byte that gives no packet, and one that does. -/
theorem witness_machine_refines :
    let s := receiving 0x41#8 none (stateOf cfgTiny six [0x61#8] .normal)
    let e := receiving 0xC0#8 (some 1) (stateOf cfgTiny six [0x61#8] .normal)
    (s.Inv ∧ s.run = .running ∧ s.rx.bytes = some six ∧
      RxDecoder.feed s.cfg ⟨s.rxState, six⟩ 0x41#8 = (⟨.discard, []⟩, none)) ∧
    (e.Inv ∧ e.run = .running ∧ e.rx.bytes = some six ∧
      RxDecoder.feed e.cfg ⟨e.rxState, six⟩ 0xC0#8 = (⟨.normal, []⟩, some six)) := by decide
theorem witness_frame_runs_packet :
    let s := { stateOf cfgTiny [] [0x61#8] .normal with
      inputs := frameEvents cfgTiny [0x11#8, 0x11#8, 0xC0#8] (some 2) ++ [Event.key 0x62#8] }
    s.Inv ∧ s.run = .running ∧ s.rxState = .normal ∧ s.rx.len = 0 ∧ 3 ≤ s.cfg.RX_CAP ∧
    s.inputs = frameEvents s.cfg [0x11#8, 0x11#8, 0xC0#8] (some 2) ++ [.key 0x62#8] := by decide
/-- One key held, one accepted, one lost. -/
theorem witness_fifo :
    let s := { stateOf cfgTiny [0x02#8] [0x61#8] .esc with inputs := [.key 0x62#8, .key 0x63#8, .reset] }
    s.Inv ∧ s.run = .running ∧ s.kb.bytes = some [0x61#8] ∧ s.inputs =
      [0x62#8, 0x63#8].map Event.key ++ [.reset] := by decide
/-- A poll: the invariant, the packet at its closing boundary, a reply that grows the stream and drains the FIFO. It meets
the hypotheses of the invariant, the FIFO rule, quiescence, the replies and the three statements on any step. -/
theorem witness_step_poll :
    let s := receiving 0xC0#8 none (stateOf cfgTiny [0x11#8, 0x11#8] [0x61#8] .normal)
    s.Inv ∧ s.kb.bytes = some [0x61#8] ∧ s.run = .running ∧ (∀ rest, s.inputs ≠ .reset :: rest) ∧
    ∃ t, step s = .next t ∧ t.txOut ≠ s.txOut ∧ t.kb.len = 0 :=
  ⟨by decide, by decide, by decide, fun rest => not_reset _ _ rest (by decide), _, rfl, by decide, by decide⟩
theorem witness_halts_interrupt :
    let s := receiving 0xC0#8 none (stateOf cfgTiny ([0x03#8, 0x03#8] ++ [0x41#8]) [0x61#8] .normal)
    s.Inv ∧ s.Closes ([0x03#8, 0x03#8] ++ [0x41#8]) none [] ∧ ∃ t, step s = .next t ∧ t.run = .halted :=
  ⟨by decide, ⟨by decide, by decide, by decide, by decide, by decide⟩, _, rfl, by decide⟩
theorem witness_halts_transport :
    let s := { stateOf cfgTiny [0x11#8] [] .esc with inputs := [.xportFail] }
    s.Inv ∧ s.run = .running ∧ s.inputs = .xportFail :: [] := by decide
/-- X4 under `CFG_TINY`: the failure strikes between the two bytes of an escape pair. -/
theorem witness_halts_reply :
    let s := receiving 0xC0#8 (some 3) (stateOf cfgTiny [0x11#8, 0x11#8] [0xC0#8] .normal)
    let f := frame s.cfg (withHeader s.cfg.T_KEY_POLL [0xC0#8])
    s.Inv ∧ s.Closes [0x11#8, 0x11#8] (some 3) [] ∧ s.ReplyTo [0x11#8, 0x11#8] f ∧ 3 < f.length :=
  ⟨by decide, ⟨by decide, by decide, by decide, by decide, by decide⟩,
    .inr (.inl ⟨[], [0xC0#8], by decide, by decide, rfl⟩), by decide⟩
/-- A boundary in each decoder state. -/
theorem witness_every_boundary :
    let n := receiving 0xC0#8 none (stateOf cfgTiny six [] .normal)
    let e := receiving 0xC0#8 none (stateOf cfgTiny six [] .esc)
    let d := receiving 0xC0#8 none (stateOf cfgTiny [] [] .discard)
    (n.Inv ∧ n.run = .running ∧ n.inputs = .rxByte n.cfg.END none :: []) ∧
    (e.Inv ∧ e.run = .running ∧ e.inputs = .rxByte e.cfg.END none :: []) ∧
    (d.Inv ∧ d.run = .running ∧ d.inputs = .rxByte d.cfg.END none :: []) := by decide
/-- A step that raises a flag, and one that finds it raised. -/
theorem witness_flags_exact :
    let s := receiving 0x41#8 none (stateOf cfgTiny six [] .esc)
    ∃ t, step s = .next t ∧ t.fEscErr = true ∧ t.raisedOut = [.framingEsc] := ⟨_, rfl, by decide, by decide⟩
theorem witness_flags_never_read :
    let s := receiving 0xC0#8 none (stateOf cfgTiny six [] .normal)
    s.forgetFlags =
      { s with fDrop := true, fRxOvf := true }.forgetFlags ∧ s ≠ { s with fDrop := true, fRxOvf := true } := by decide
theorem witness_outputs_never_read :
    let s := { receiving 0xC0#8 none (stateOf cfgTiny six [] .normal) with trace := [.tx 0x05#8] }
    (∀ rest, s.inputs ≠ .reset :: rest) ∧ ∃ t, step s.forgetTrace = .next t ∧ t.trace ≠ [] :=
  ⟨fun rest => not_reset _ _ rest (by decide), _, rfl, by decide⟩

end Sys2Proof.Tests
end

section
/-! SUPPORT. The facts the framing decoder's statements share: the framing bytes are distinct, one equation per arm of
the decoder (spec/40_framing_decoder.md R66 to R78), what abandoning a frame leaves, and the instruction of a packet run
by `deliver` (R68, R95). -/

namespace Sys2Proof

/-! ## The framing bytes (R6, constraint 1) -/

namespace Config.Ok

variable {c : Config}

/-- The distinctions the decoder's tests rest on. -/
theorem framing_distinct (h : c.Ok) :
    c.ESC ≠ c.END ∧ c.ESC_END ≠ c.END ∧ c.ESC_ESC ≠ c.END ∧ c.ESC_ESC ≠ c.ESC_END := by
  obtain ⟨hnodup, -⟩ := h
  simp only [List.nodup_cons, List.mem_cons, not_or] at hnodup
  obtain ⟨⟨hesc, hescEnd, hescEsc, -⟩, -, ⟨hpair, -⟩, -⟩ := hnodup
  exact ⟨Ne.symm hesc, Ne.symm hescEnd, Ne.symm hescEsc, Ne.symm hpair⟩

theorem esc_ne_end (h : c.Ok) : c.ESC ≠ c.END := h.framing_distinct.1
theorem escEnd_ne_end (h : c.Ok) : c.ESC_END ≠ c.END := h.framing_distinct.2.1
theorem escEsc_ne_end (h : c.Ok) : c.ESC_ESC ≠ c.END := h.framing_distinct.2.2.1
theorem escEsc_ne_escEnd (h : c.Ok) : c.ESC_ESC ≠ c.ESC_END := h.framing_distinct.2.2.2

end Config.Ok

/-! ## The arm of a byte (R66), one equation per row of R78 -/

section Arms

variable {c : Config} {len : Nat} {b : Byte}

theorem decodeSymbol_normal_end_empty : decodeSymbol c .normal 0 c.END = .endEmptyFrame := by simp [decodeSymbol]

theorem decodeSymbol_normal_end (h : 0 < len) : decodeSymbol c .normal len c.END = .endOfFrame := by
  simp [decodeSymbol, Nat.ne_of_gt h]

theorem decodeSymbol_normal_esc (hc : c.Ok) : decodeSymbol c .normal len c.ESC = .esc := by
  simp [decodeSymbol, hc.esc_ne_end]

theorem decodeSymbol_normal_literal (hend : b ≠ c.END) (hesc : b ≠ c.ESC) :
    decodeSymbol c .normal len b = .literal b := by
  simp [decodeSymbol, hend, hesc]

theorem decodeSymbol_esc_escEnd : decodeSymbol c .esc len c.ESC_END = .escEnd := by simp [decodeSymbol]

theorem decodeSymbol_esc_escEsc (hc : c.Ok) : decodeSymbol c .esc len c.ESC_ESC = .escEsc := by
  simp [decodeSymbol, hc.escEsc_ne_escEnd]

theorem decodeSymbol_esc_end (hc : c.Ok) : decodeSymbol c .esc len c.END = .endAfterEsc := by
  simp [decodeSymbol, hc.escEnd_ne_end.symm, hc.escEsc_ne_end.symm]

theorem decodeSymbol_esc_other (h1 : b ≠ c.ESC_END) (h2 : b ≠ c.ESC_ESC) (h3 : b ≠ c.END) :
    decodeSymbol c .esc len b = .badEscape b := by
  simp [decodeSymbol, h1, h2, h3]

theorem decodeSymbol_discard_end : decodeSymbol c .discard len c.END = .endResync := by simp [decodeSymbol]

theorem decodeSymbol_discard_other (h : b ≠ c.END) : decodeSymbol c .discard len b = .discarded b := by
  simp [decodeSymbol, h]

/-- Only the boundary byte closes a frame. -/
theorem eq_end_of_decodeSymbol_eq_endOfFrame {m : RxState} (h : decodeSymbol c m len b = .endOfFrame) : b = c.END := by
  by_contra hb
  cases m with
  | normal =>
    simp only [decodeSymbol, if_neg hb] at h
    split_ifs at h
  | esc =>
    simp only [decodeSymbol, if_neg hb] at h
    split_ifs at h
  | discard => simp [decodeSymbol_discard_other hb] at h

end Arms

namespace Machine

/-! ## Discarding a frame, and storing a byte -/

/-- What the overflow and the two framing errors have in common (R70, R74, R75): the event is raised, nothing is held any
more, the decoder goes to `m`. -/
def abandonFrame (e : Abnormal) (m : RxState) (s : State) : State := ((raise e s).clearRx).setRxState m

section Abandon

variable (e : Abnormal) (m : RxState) (s : State)

@[simp] theorem abandonFrame_rx_len : (abandonFrame e m s).rx.len = 0 := rfl
@[simp] theorem abandonFrame_txOut : (abandonFrame e m s).txOut = s.txOut := raise_txOut s e
@[simp] theorem abandonFrame_dispOut : (abandonFrame e m s).dispOut = s.dispOut := raise_dispOut s e
@[simp] theorem abandonFrame_raisedOut : (abandonFrame e m s).raisedOut = s.raisedOut ++ [e] := raise_raisedOut s e

/-- A framing error writes the receive buffer, `rx_state`, `f_esc_err` and the record, and nothing else. -/
theorem abandonFrame_framingEsc_frame :
    abandonFrame .framingEsc m s =
      { s with
        rx := (abandonFrame .framingEsc m s).rx, rxState := m, fEscErr := true
        trace := (abandonFrame .framingEsc m s).trace } := rfl

/-- An overflow writes the receive buffer, `rx_state`, `f_rx_ovf` and the record, and nothing else. -/
theorem abandonFrame_framingOvf_frame :
    abandonFrame .framingOvf m s =
      { s with
        rx := (abandonFrame .framingOvf m s).rx, rxState := m, fRxOvf := true
        trace := (abandonFrame .framingOvf m s).trace } := rfl

end Abandon

variable {s : State}

theorem exec_endAfterEsc : exec .endAfterEsc s = .next (abandonFrame .framingEsc .normal s) := rfl
theorem exec_badEscape (b : Byte) : exec (.badEscape b) s = .next (abandonFrame .framingEsc .discard s) := rfl

theorem store_of_room (h : s.rx.len < s.cfg.RX_CAP) (v : Byte) :
    store v s = { s with rx := s.rx.push v, rxState := .normal } := by
  rcases store_cases s v with ⟨_, hs⟩ | ⟨hfull, _⟩
  · exact hs
  · omega

theorem store_of_full (h : s.cfg.RX_CAP ≤ s.rx.len) (v : Byte) : store v s = abandonFrame .framingOvf .discard s := by
  rcases store_cases s v with ⟨hroom, _⟩ | ⟨_, hs⟩
  · omega
  · exact hs

/-! ## A delivered packet runs its instruction (R68, R95) -/

theorem exec_endOfFrame {p : Packet} (h : s.rx.bytes = some p) : exec .endOfFrame s = deliver p s.clearRx := by
  simp [exec, execEndOfFrame, rxPacket, h]

theorem decodePacket_ne_nil (c : Config) {p : Packet} (h : p ≠ []) : ∃ i, decodePacket c p = .ok i := by
  cases p with
  | nil => exact absurd rfl h
  | cons a q => exact ⟨_, rfl⟩

/-- The decoder and the dispatcher are one selection, so delivering a packet is running what it decodes to. -/
theorem deliver_eq_exec {p : Packet} {i : Instr} (h : decodePacket s.cfg p = .ok i) : deliver p s = exec i s := by
  cases p with
  | nil => cases h
  | cons a q =>
    cases h
    exact (byTag_map (fun i => exec i s) s.cfg (a :: q) (.drop (a :: q)) .termspecQuery .keyPoll .displayWrite
      .interrupt).symm

end Machine

end Sys2Proof
end

section
/-! SUPPORT. The decoder over a stream against the segments of the stream (spec/40_framing_decoder.md R79): how a segment
is unescaped, what the decoder does with each byte, and the simulation between the two. -/

namespace Sys2Proof

variable {c : Config}

/-! ## Unescaping a segment -/

/-- The wire bytes `u` are read as the one byte `v` where a segment is unescaped: a byte that is no `ESC`, or one of the
two escape pairs (R46, R79). -/
inductive ReadAs (c : Config) : List Byte → Byte → Prop where
  | literal {b : Byte} : b ≠ c.ESC → ReadAs c [b] b
  | escEnd : ReadAs c [c.ESC, c.ESC_END] c.END
  | escEsc : ReadAs c [c.ESC, c.ESC_ESC] c.ESC

theorem unescape_readAs (hc : c.Ok) {u : List Byte} {v : Byte} (h : ReadAs c u v) (seg : List Byte) :
    unescape c (u ++ seg) = (unescape c seg).map (v :: ·) := by
  cases h with
  | literal hb => cases seg <;> simp [unescape, hb]
  | escEnd => simp [unescape]
  | escEsc => simp [unescape, hc.escEsc_ne_escEnd]

theorem unescape_badEscape {d : Byte} (h1 : d ≠ c.ESC_END) (h2 : d ≠ c.ESC_ESC) (seg : List Byte) :
    unescape c (c.ESC :: d :: seg) = none := by
  simp [unescape, h1, h2]

theorem unescape_loneEsc : unescape c [c.ESC] = none := by simp [unescape]

/-- Induction over a segment as it is unescaped: the bytes of one decoded byte, an invalid escape, or a last `ESC`. -/
theorem segment_induction (c : Config) {motive : List Byte → Prop} (nil : motive [])
    (readAs : ∀ u v seg, ReadAs c u v → motive seg → motive (u ++ seg))
    (badEscape : ∀ d seg, d ≠ c.ESC_END → d ≠ c.ESC_ESC → motive (c.ESC :: d :: seg))
    (loneEsc : motive [c.ESC]) (seg : List Byte) : motive seg := by
  induction seg using unescape.induct c with
  | case1 => exact nil
  | case2 => exact loneEsc
  | case3 b hb => exact readAs _ b [] (.literal hb) nil
  | case4 seg ih => exact readAs _ _ seg .escEnd ih
  | case5 seg _ ih => exact readAs _ _ seg .escEsc ih
  | case6 d seg h1 h2 => exact badEscape d seg h1 h2
  | case7 b d seg hb ih => exact readAs _ b (d :: seg) (.literal hb) ih

/-- What a segment decodes to after a part that is whole on its own. -/
theorem unescape_append (hc : c.Ok) {xs q : List Byte} (h : unescape c xs = some q) (ys : List Byte) :
    unescape c (xs ++ ys) = (unescape c ys).map (q ++ ·) := by
  induction xs using segment_induction c generalizing q with
  | nil =>
    cases h
    simp
  | readAs u v seg hu ih =>
    rw [unescape_readAs hc hu, Option.map_eq_some_iff] at h
    obtain ⟨r, hr, rfl⟩ := h
    rw [List.append_assoc, unescape_readAs hc hu, ih hr, Option.map_map]
    rfl
  | badEscape d seg h1 h2 => simp [unescape_badEscape h1 h2] at h
  | loneEsc => simp [unescape_loneEsc] at h

/-! ## The packet of a segment -/

/-- A decoded segment as a packet: one that is neither empty nor longer than the buffer (R79). -/
def deliverable (c : Config) (p : Packet) : Option Packet := if p ≠ [] ∧ p.length ≤ c.RX_CAP then some p else none

/-- The packet that a decoder holding `held` delivers where the rest `seg` of its segment ends. -/
def packetFrom (c : Config) (held seg : List Byte) : Option Packet :=
  (unescape c seg).bind fun p => deliverable c (held ++ p)

theorem segmentPacket_eq_packetFrom (c : Config) (seg : List Byte) : segmentPacket c seg = packetFrom c [] seg := by
  unfold segmentPacket packetFrom
  cases unescape c seg <;> rfl

/-- A byte decoded at the front of the segment is as good as one held. -/
theorem packetFrom_readAs (hc : c.Ok) {u : List Byte} {v : Byte} (h : ReadAs c u v) (held seg : List Byte) :
    packetFrom c held (u ++ seg) = packetFrom c (held ++ [v]) seg := by
  unfold packetFrom
  rw [unescape_readAs hc h]
  cases unescape c seg <;> simp

theorem packetFrom_of_unescape_none {seg : List Byte} (h : unescape c seg = none) (held : List Byte) :
    packetFrom c held seg = none := by
  simp [packetFrom, h]

/-- More bytes held than the buffer's capacity are never part of a packet. -/
theorem packetFrom_of_overLong {held : List Byte} (h : c.RX_CAP < held.length) (seg : List Byte) :
    packetFrom c held seg = none := by
  unfold packetFrom
  cases unescape c seg with
  | none => rfl
  | some p => simp [deliverable, Nat.lt_add_right _ h]

theorem segmentPacket_of_unescape_none {seg : List Byte} (h : unescape c seg = none) : segmentPacket c seg = none := by
  rw [segmentPacket_eq_packetFrom, packetFrom_of_unescape_none h]

theorem segmentPacket_of_fits {seg p : List Byte} (h : unescape c seg = some p) (h1 : 1 ≤ p.length)
    (h2 : p.length ≤ c.RX_CAP) : segmentPacket c seg = some p := by
  simp [segmentPacket, h, h2, List.ne_nil_of_length_pos h1]

theorem segmentPacket_of_overLong {seg p : List Byte} (h : unescape c seg = some p) (hp : c.RX_CAP < p.length) :
    segmentPacket c seg = none := by
  simp [segmentPacket, h, hp]

/-! ## The decoder, byte by byte -/

namespace RxDecoder

variable {held bs : List Byte} {b : Byte}

theorem packets_normal_end (held bs : List Byte) :
    packets c ⟨.normal, held⟩ (c.END :: bs) = (if held = [] then [] else [held]) ++ packets c fresh bs := by
  cases held with
  | nil => simp [packets, feed, decodeSymbol_normal_end_empty, fresh]
  | cons a as => simp [packets, feed, decodeSymbol_normal_end, fresh]

theorem packets_normal_esc (hc : c.Ok) :
    packets c ⟨.normal, held⟩ (c.ESC :: bs) = packets c ⟨.esc, held⟩ bs := by
  simp [packets, feed, decodeSymbol_normal_esc hc]

/-- The bytes of one decoded byte store that byte (R71 to R73). -/
theorem packets_readAs (hc : c.Ok) {u : List Byte} {v : Byte} (h : ReadAs c u v) (hend : c.END ∉ u) :
    packets c ⟨.normal, held⟩ (u ++ bs) = packets c (store c v ⟨.normal, held⟩) bs := by
  cases h with
  | literal hb =>
    have hne : v ≠ c.END := fun e => hend (by simp [e])
    simp [packets, feed, decodeSymbol_normal_literal hne hb]
  | escEnd =>
    rw [List.cons_append, packets_normal_esc hc]
    simp [packets, feed, decodeSymbol_esc_escEnd, store]
  | escEsc =>
    rw [List.cons_append, packets_normal_esc hc]
    simp [packets, feed, decodeSymbol_esc_escEsc hc, store]

theorem packets_esc_end (hc : c.Ok) : packets c ⟨.esc, held⟩ (c.END :: bs) = packets c fresh bs := by
  simp [packets, feed, decodeSymbol_esc_end hc, fresh]

theorem packets_esc_other (h1 : b ≠ c.ESC_END) (h2 : b ≠ c.ESC_ESC) (h3 : b ≠ c.END) :
    packets c ⟨.esc, held⟩ (b :: bs) = packets c ⟨.discard, []⟩ bs := by
  simp [packets, feed, decodeSymbol_esc_other h1 h2 h3]

theorem packets_discard_end : packets c ⟨.discard, []⟩ (c.END :: bs) = packets c fresh bs := by
  simp [packets, feed, decodeSymbol_discard_end, fresh]

theorem packets_discard_other (h : b ≠ c.END) :
    packets c ⟨.discard, []⟩ (b :: bs) = packets c ⟨.discard, []⟩ bs := by
  simp [packets, feed, decodeSymbol_discard_other h]

/-- End of frame is the one arm that delivers, and it delivers the bytes held (R68). -/
theorem feed_packet (d : RxDecoder) (b : Byte) :
    (d.feed c b).2 = if decodeSymbol c d.mode d.held.length b = .endOfFrame then some d.held else none := by
  unfold feed
  cases decodeSymbol c d.mode d.held.length b <;> rfl

/-- A byte that is no boundary delivers nothing. -/
theorem feed_packet_of_ne_end (d : RxDecoder) (h : b ≠ c.END) : (d.feed c b).2 = none := by
  rw [feed_packet, if_neg (mt eq_end_of_decodeSymbol_eq_endOfFrame h)]

/-- An unfinished segment yields nothing (R79). -/
theorem packets_of_no_end (d : RxDecoder) (h : c.END ∉ bs) : packets c d bs = [] := by
  induction bs generalizing d with
  | nil => rfl
  | cons b bs ih =>
    obtain ⟨hb, hbs⟩ := List.ne_and_not_mem_of_not_mem_cons h
    simp [packets, feed_packet_of_ne_end d hb.symm, ih _ hbs]

/-! ## A whole segment -/

variable {seg rest : List Byte}

/-- While discarding, the rest of the segment and its boundary only bring the decoder back to a frame boundary. -/
theorem packets_discard_segment (h : c.END ∉ seg) :
    packets c ⟨.discard, []⟩ (seg ++ c.END :: rest) = packets c fresh rest := by
  induction seg with
  | nil => exact packets_discard_end
  | cons b seg ih =>
    obtain ⟨hb, hseg⟩ := List.ne_and_not_mem_of_not_mem_cons h
    rw [List.cons_append, packets_discard_other hb.symm, ih hseg]

/-- One stored byte of a segment: with room the segment goes on from one byte more; without, it is lost, and so it is
for the judgement by length. `ih` is the rest of the segment from every buffer within the capacity. -/
theorem packets_store_segment (hseg : c.END ∉ seg)
    (ih : ∀ held, held.length ≤ c.RX_CAP → packets c ⟨.normal, held⟩ (seg ++ c.END :: rest) =
      (packetFrom c held seg).toList ++ packets c fresh rest)
    (v : Byte) (held : List Byte) :
    packets c (store c v ⟨.normal, held⟩) (seg ++ c.END :: rest) =
      (packetFrom c (held ++ [v]) seg).toList ++ packets c fresh rest := by
  by_cases hroom : held.length < c.RX_CAP
  · rw [store, if_pos hroom]
    exact ih _ (by simpa using hroom)
  · rw [store, if_neg hroom, packets_discard_segment hseg, packetFrom_of_overLong (by simp; omega)]
    rfl

/-- The simulation (R79): a decoder at `held` reads the rest of a segment and its boundary as the judgement of the
segment alone says, and is back at a frame boundary. -/
theorem packets_segment (hc : c.Ok) (hseg : c.END ∉ seg) (hlen : held.length ≤ c.RX_CAP) :
    packets c ⟨.normal, held⟩ (seg ++ c.END :: rest) =
      (packetFrom c held seg).toList ++ packets c fresh rest := by
  induction seg using segment_induction c generalizing held with
  | nil =>
    rw [List.nil_append, packets_normal_end]
    by_cases h : held = [] <;> simp [packetFrom, unescape, deliverable, h, hlen]
  | readAs u v seg hu ih =>
    rw [List.mem_append, not_or] at hseg
    obtain ⟨hend, hseg⟩ := hseg
    rw [List.append_assoc, packets_readAs hc hu hend, packets_store_segment hseg fun _ => ih hseg,
      packetFrom_readAs hc hu]
  | badEscape d seg h1 h2 =>
    have hd : d ≠ c.END := fun h => hseg (by simp [h])
    have hseg : c.END ∉ seg := fun h => hseg (by simp [h])
    rw [List.cons_append, List.cons_append, packets_normal_esc hc, packets_esc_other h1 h2 hd,
      packets_discard_segment hseg, packetFrom_of_unescape_none (unescape_badEscape h1 h2 seg)]
    rfl
  | loneEsc =>
    rw [List.singleton_append, packets_normal_esc hc, packets_esc_end hc,
      packetFrom_of_unescape_none unescape_loneEsc]
    rfl

end RxDecoder

/-! ## A whole stream -/

/-- A finished segment yields its own packet, and the stream after it is read as if it stood alone (R79). -/
theorem decodeStream_segment (hc : c.Ok) {seg : List Byte} (hseg : c.END ∉ seg) (rest : List Byte) :
    decodeStream c (seg ++ c.END :: rest) = (segmentPacket c seg).toList ++ decodeStream c rest := by
  rw [segmentPacket_eq_packetFrom]
  exact RxDecoder.packets_segment hc hseg (Nat.zero_le _)

theorem decodeStream_of_no_end {s : List Byte} (h : c.END ∉ s) : decodeStream c s = [] :=
  RxDecoder.packets_of_no_end _ h

/-- Both decoders agree on a stream that begins with an unfinished segment. -/
theorem decodeStream_append_eq_segments (hc : c.Ok) (s : List Byte) {cur : List Byte} (hcur : c.END ∉ cur) :
    decodeStream c (cur ++ s) = (segments c cur s).filterMap (segmentPacket c) := by
  induction s generalizing cur with
  | nil => simp [segments, decodeStream_of_no_end hcur]
  | cons b s ih =>
    by_cases hb : b = c.END
    · have hrest : decodeStream c s = (segments c [] s).filterMap (segmentPacket c) := ih List.not_mem_nil
      rw [hb, decodeStream_segment hc hcur, segments, if_pos rfl, hrest, List.filterMap_cons]
      cases segmentPacket c cur <;> rfl
    · rw [segments, if_neg hb, ← ih (by simp [hcur, Ne.symm hb]), List.append_assoc, List.singleton_append]

/-! ## The frame of a packet (R46) -/

theorem readAs_escByte (c : Config) (b : Byte) : ReadAs c (escByte c b) b := by
  unfold escByte
  split_ifs with h1 h2
  · rw [h1]
    exact .escEnd
  · rw [h2]
    exact .escEsc
  · exact .literal h2

/-- The escape map is undone by the decoder's. -/
theorem unescape_flatMap_escByte (hc : c.Ok) (p : Packet) : unescape c (p.flatMap (escByte c)) = some p := by
  induction p with
  | nil => rfl
  | cons b p ih => rw [List.flatMap_cons, unescape_readAs hc (readAs_escByte c b), ih, Option.map_some]

theorem end_notMem_escByte (hc : c.Ok) (b : Byte) : c.END ∉ escByte c b := by
  unfold escByte
  split_ifs with h1 h2
  · simp [hc.esc_ne_end.symm, hc.escEnd_ne_end.symm]
  · simp [hc.esc_ne_end.symm, hc.escEsc_ne_end.symm]
  · simpa using Ne.symm h1

theorem end_notMem_flatMap_escByte (hc : c.Ok) (p : Packet) : c.END ∉ p.flatMap (escByte c) := by
  simp [List.mem_flatMap, end_notMem_escByte hc]

/-- A frame at the front of a stream yields its packet, if it has a byte and fits the buffer. -/
theorem decodeStream_frame_append (hc : c.Ok) {p : Packet} (h1 : 1 ≤ p.length) (h2 : p.length ≤ c.RX_CAP)
    (rest : List Byte) : decodeStream c (frame c p ++ rest) = p :: decodeStream c rest := by
  rw [frame, List.append_assoc, List.singleton_append, decodeStream_segment hc (end_notMem_flatMap_escByte hc p),
    segmentPacket_of_fits (unescape_flatMap_escByte hc p) h1 h2]
  rfl

/-- Bytes without a boundary in front of a frame make one segment with it. -/
theorem decodeStream_append_frame (hc : c.Ok) {j : List Byte} (hj : c.END ∉ j) (p : Packet) :
    decodeStream c (j ++ frame c p) = (segmentPacket c (j ++ p.flatMap (escByte c))).toList := by
  have hseg : c.END ∉ j ++ p.flatMap (escByte c) := by
    rw [List.mem_append, not_or]
    exact ⟨hj, end_notMem_flatMap_escByte hc p⟩
  rw [frame, ← List.append_assoc, decodeStream_segment hc hseg, decodeStream_of_no_end List.not_mem_nil,
    List.append_nil]

/-! ## Damaged runs (R81) -/

open Machine

/-- A damaged run stays damaged, whatever whole frame body follows it in the segment; an over-long one is then still
longer. -/
theorem segmentPacket_damaged_append (hc : c.Ok) {j : List Byte} (h : OverLong c j ∨ HasInvalidEscape c j)
    (p : Packet) :
    segmentPacket c (j ++ p.flatMap (escByte c)) = none := by
  rcases h with ⟨q, hq, hlong⟩ | ⟨before, q, d, after, rfl, hq, h1, h2⟩
  · have hall : unescape c (j ++ p.flatMap (escByte c)) = some (q ++ p) := by
      rw [unescape_append hc hq, unescape_flatMap_escByte hc, Option.map_some]
    exact segmentPacket_of_overLong hall (by rw [List.length_append]; omega)
  · apply segmentPacket_of_unescape_none
    rw [List.append_assoc, unescape_append hc hq, List.cons_append, List.cons_append, unescape_badEscape h1 h2,
      Option.map_none]

theorem segmentPacket_damaged (hc : c.Ok) {j : List Byte} (h : OverLong c j ∨ HasInvalidEscape c j) :
    segmentPacket c j = none := by
  simpa using segmentPacket_damaged_append hc h []

end Sys2Proof
end

section
/-! The statements of spec/40_framing_decoder.md. -/

namespace Sys2Proof

open Machine

/-- Settles O30: each finished segment by the simulation, the unfinished one by yielding nothing. -/
theorem streamDecoderIsSegmentwise : Obligations.StreamDecoderIsSegmentwise := by
  intro c s hc
  exact decodeStream_append_eq_segments hc s List.not_mem_nil

/-- Settles O31, by induction over the packets: each frame is one segment, unescaped to its packet. -/
theorem framesRoundTrip : Obligations.FramesRoundTrip := by
  intro c ps hc hps
  constructor
  · induction ps with
    | nil => rfl
    | cons p ps ih =>
      obtain ⟨⟨h1, h2⟩, hps⟩ := List.forall_mem_cons.mp hps
      rw [List.flatMap_cons, decodeStream_frame_append hc h1 h2, ih hps]
  · exact decodeStream_append_frame hc List.not_mem_nil []

/-- Settles O32: with the boundary the run is a segment of its own, without it one segment with the frame's body; neither
of the two yields a packet. -/
theorem damagedRunResynchronises : Obligations.DamagedRunResynchronises := by
  intro c j p hc hj hdamaged h1 h2
  constructor
  · calc decodeStream c (j ++ [c.END] ++ frame c p)
        = (segmentPacket c j).toList ++ decodeStream c (frame c p ++ []) := by
          rw [List.append_assoc, List.singleton_append, decodeStream_segment hc hj, List.append_nil]
      _ = [p] := by rw [segmentPacket_damaged hc hdamaged, decodeStream_frame_append hc h1 h2]; rfl
  · rw [decodeStream_append_frame hc hj, segmentPacket_damaged_append hc hdamaged]
    rfl

/-- Settles O7: the three arms are one `store`, which has room or abandons the frame. -/
theorem storingArmsStoreOrOverflow : Obligations.StoringArmsStoreOrOverflow := by
  intro s w v i hc harm
  have hstore : decodeSymbol s.cfg s.rxState s.rx.len w = i ∧ exec i s = .next (store v s) := by
    rcases harm with ⟨hm, hend, hesc, rfl, rfl⟩ | ⟨hm, rfl, rfl, rfl⟩ | ⟨hm, rfl, rfl, rfl⟩ <;> rw [hm]
    · exact ⟨decodeSymbol_normal_literal hend hesc, rfl⟩
    · exact ⟨decodeSymbol_esc_escEnd, rfl⟩
    · exact ⟨decodeSymbol_esc_escEsc hc, rfl⟩
  obtain ⟨hdecode, hexec⟩ := hstore
  refine ⟨hdecode, fun hroom => ?_, fun hfull => ?_⟩
  · rw [store_of_room hroom] at hexec
    exact ⟨_, hexec, rfl, rfl, s.rx.push_read_same v, fun a ha => Buffer.push_read_other ha v⟩
  · rw [store_of_full hfull.ge] at hexec
    exact ⟨_, hexec, abandonFrame_framingOvf_frame .discard s, by simp⟩

/-- Settles O10: the packet held is not empty, so it decodes, and delivering it is running what it decodes to. -/
theorem endOfFrameRunsDecodedPacket : Obligations.EndOfFrameRunsDecodedPacket := by
  intro s p hc hm hlen hp
  have hne : p ≠ [] := List.ne_nil_of_length_pos (Buffer.bytes_length hp ▸ hlen)
  obtain ⟨i, hi⟩ := decodePacket_ne_nil s.cfg hne
  have hrun : exec .endOfFrame s = exec i s.clearRx := (exec_endOfFrame hp).trans (deliver_eq_exec hi)
  exact ⟨hm ▸ decodeSymbol_normal_end hlen, i, s.clearRx, hi, rfl, rfl, hrun⟩

/-- Settles O6, arm by arm. -/
theorem quietArms : Obligations.QuietArms := by
  intro s b hc
  refine ⟨fun hm hlen hb => ?_, fun hm hb => ?_, fun hm hb => ?_, fun hm hb => ?_⟩ <;> rw [hm]
  · rw [hlen, hb]
    exact ⟨decodeSymbol_normal_end_empty, rfl⟩
  · rw [hb]
    exact ⟨decodeSymbol_normal_esc hc, rfl⟩
  · rw [hb]
    exact ⟨decodeSymbol_discard_end, rfl⟩
  · exact ⟨decodeSymbol_discard_other hb, rfl⟩

/-- Settles O8: both arms abandon the frame and differ in the decoder state they leave. -/
theorem framingErrorArms : Obligations.FramingErrorArms := by
  intro s b hc hm h1 h2
  refine ⟨fun hb => ⟨?_, _, exec_endAfterEsc, abandonFrame_framingEsc_frame .normal s, by simp⟩,
    fun hb => ⟨?_, _, exec_badEscape b, abandonFrame_framingEsc_frame .discard s, by simp⟩⟩ <;> rw [hm]
  · rw [hb]
    exact decodeSymbol_esc_end hc
  · exact decodeSymbol_esc_other h1 h2 hb

end Sys2Proof
end

section
/-! SUPPORT. The facts the encoder's statements share: how long a frame is, where the escape byte stands in its body, and
how a stream of frames is cut (spec/41_framing_encoder.md R87, R88, R91). -/

namespace Sys2Proof

variable {c : Config}

/-! ## The substitution bytes (R6, constraint 1) -/

theorem Config.Ok.substitution_ne_esc (h : c.Ok) : c.ESC_END ≠ c.ESC ∧ c.ESC_ESC ≠ c.ESC := by
  obtain ⟨hnodup, -⟩ := h
  simp only [List.nodup_cons, List.mem_cons, not_or] at hnodup
  obtain ⟨-, ⟨hescEnd, hescEsc, -⟩, -⟩ := hnodup
  exact ⟨Ne.symm hescEnd, Ne.symm hescEsc⟩

/-! ## The length of a frame (R88) -/

theorem escByte_length (c : Config) (b : Byte) :
    (escByte c b).length = if b = c.END ∨ b = c.ESC then 2 else 1 := by
  by_cases h1 : b = c.END
  · simp [escByte, h1]
  · by_cases h2 : b = c.ESC
    · rw [escByte, if_neg h1, if_pos h2, if_pos (.inr h2)]
      rfl
    · simp [escByte, h1, h2]

/-- A frame's body has one byte more for each byte that needs escaping. -/
theorem flatMap_escByte_length (c : Config) (p : Packet) :
    (p.flatMap (escByte c)).length = p.length + p.countP (fun b => decide (b = c.END ∨ b = c.ESC)) := by
  induction p with
  | nil => rfl
  | cons b p ih =>
    rw [List.flatMap_cons, List.length_append, ih, escByte_length, List.length_cons, List.countP_cons]
    simp only [decide_eq_true_eq]
    split_ifs <;> omega

@[simp] theorem frame_length (c : Config) (p : Packet) :
    (frame c p).length = (p.flatMap (escByte c)).length + 1 := by
  simp [frame]

/-! ## The escape byte inside a frame (R91) -/

/-- In the image of one byte, `ESC` only opens an escape pair. -/
theorem escByte_esc_opens_pair (hc : c.Ok) {b : Byte} {before after : List Byte}
    (h : escByte c b = before ++ c.ESC :: after) : ∃ d, after = [d] ∧ (d = c.ESC_END ∨ d = c.ESC_ESC) := by
  obtain ⟨hescEnd, hescEsc⟩ := hc.substitution_ne_esc
  unfold escByte at h
  split_ifs at h with h1 h2
  · obtain ⟨-, hafter⟩ : before = [] ∧ after = [c.ESC_END] := by
      simpa [List.cons_eq_append_iff, hescEnd.symm] using h
    exact ⟨_, hafter, .inl rfl⟩
  · obtain ⟨-, hafter⟩ : before = [] ∧ after = [c.ESC_ESC] := by
      simpa [List.cons_eq_append_iff, hescEsc.symm] using h
    exact ⟨_, hafter, .inr rfl⟩
  · simp [List.cons_eq_append_iff, Ne.symm h2] at h

/-- In a frame's body `ESC` only opens an escape pair: an `ESC` of the first byte's image does so there, one further on
by the induction. -/
theorem flatMap_escByte_esc_opens_pair (hc : c.Ok) {p : Packet} {before after : List Byte}
    (h : p.flatMap (escByte c) = before ++ c.ESC :: after) :
    ∃ d rest, after = d :: rest ∧ (d = c.ESC_END ∨ d = c.ESC_ESC) := by
  induction p generalizing before with
  | nil => simp at h
  | cons b p ih =>
    rw [List.flatMap_cons, List.append_eq_append_iff] at h
    rcases h with ⟨mid, -, hrest⟩ | ⟨mid, hfirst, hrest⟩
    · exact ih hrest
    · cases mid with
      | nil => exact ih (before := []) hrest.symm
      | cons e tail =>
        rw [List.cons_append, List.cons.injEq] at hrest
        obtain ⟨rfl, rfl⟩ := hrest
        obtain ⟨d, rfl, hd⟩ := escByte_esc_opens_pair hc hfirst
        exact ⟨d, _, rfl, hd⟩

/-! ## A stream of frames, cut at every boundary (R91) -/

/-- Bytes without a boundary, then a boundary, finish one segment. -/
theorem segments_append_end {seg : List Byte} (hseg : c.END ∉ seg) (cur rest : List Byte) :
    segments c cur (seg ++ c.END :: rest) = (cur ++ seg) :: segments c [] rest := by
  induction seg generalizing cur with
  | nil => simp [segments]
  | cons b seg ih =>
    obtain ⟨hb, hseg⟩ := List.ne_and_not_mem_of_not_mem_cons hseg
    rw [List.cons_append, segments, if_neg hb.symm, ih hseg, List.append_assoc, List.singleton_append]

/-- The stream of the frames sent is cut into exactly their bodies. -/
theorem segments_flatMap_frame (hc : c.Ok) (ps : List Packet) :
    segments c [] (ps.flatMap (frame c)) = ps.map fun q => q.flatMap (escByte c) := by
  induction ps with
  | nil => rfl
  | cons p ps ih =>
    rw [List.flatMap_cons, frame, List.append_assoc, List.singleton_append,
      segments_append_end (end_notMem_flatMap_escByte hc p), ih, List.nil_append, List.map_cons]

end Sys2Proof
end

section
/-! The statements of spec/41_framing_encoder.md. -/

namespace Sys2Proof

/-- Settles O27: the law by the length of the body; its bounds because no more bytes need escaping than there are. -/
theorem frameLengthLaw : Obligations.FrameLengthLaw := by
  intro c p
  have hbody := flatMap_escByte_length c p
  have hescaped := List.countP_le_length (p := fun b => decide (b = c.END ∨ b = c.ESC)) (l := p)
  rw [frame_length]
  omega

/-- Settles O28: the body is the escaped packet; each clause is a fact about it. -/
theorem frameHoldsNoInnerBoundary : Obligations.FrameHoldsNoInnerBoundary := by
  intro c p hc
  refine ⟨p.flatMap (escByte c), rfl, end_notMem_flatMap_escByte hc p,
    fun _ _ h => flatMap_escByte_esc_opens_pair hc h, segments_flatMap_frame hc, fun h1 h2 => ?_⟩
  simpa [decodeStream_of_no_end] using decodeStream_frame_append hc h1 h2 []

/-- Settles O29: the bounds on the sizes are constraints 3 to 5 of R6, the bound on the keys held is the invariant's. -/
theorem repliesFitMaxPacket : Obligations.RepliesFitMaxPacket := by
  intro s keys hinv hkeys
  obtain ⟨⟨-, -, ⟨hack, -⟩, ⟨-, hkb⟩, hident⟩, -, -, -, hheld, -⟩ := hinv
  have hlen : keys.length = s.kb.len := Machine.Buffer.bytes_length hkeys
  simp only [List.length_append, List.length_cons, List.length_nil]
  omega

end Sys2Proof
end

section
/-! SUPPORT. The facts the dispatcher's statements share: the instruction of each kind of packet (spec/42_dispatcher.md
R95), what a reply leaves when it is sent whole and when it is cut (R98 to R100, R146), and the run of a halted block
(R101). -/

namespace Sys2Proof

/-! ## The tags (R6, constraint 2) -/

/-- The distinctions the order of the tag tests rests on. -/
theorem Config.Ok.tags_distinct {c : Config} (h : c.Ok) :
    c.T_KEY_POLL ≠ c.T_TERMSPEC_QUERY ∧
    (c.T_DISPLAY_WRITE ≠ c.T_TERMSPEC_QUERY ∧ c.T_DISPLAY_WRITE ≠ c.T_KEY_POLL) ∧
    T_INTERRUPT ≠ c.T_TERMSPEC_QUERY ∧ T_INTERRUPT ≠ c.T_KEY_POLL ∧ T_INTERRUPT ≠ c.T_DISPLAY_WRITE := by
  obtain ⟨-, hnodup, -⟩ := h
  simp only [List.nodup_cons, List.mem_cons, not_or] at hnodup
  obtain ⟨⟨hqk, hqd, hqi, -⟩, ⟨hkd, hki, -⟩, ⟨hdi, -⟩, -⟩ := hnodup
  exact ⟨Ne.symm hqk, ⟨Ne.symm hqd, Ne.symm hkd⟩, Ne.symm hqi, Ne.symm hki, Ne.symm hdi⟩

/-! ## The instruction of a packet (R95), one equation per arm -/

section Packets

variable {c : Config} {p : Packet} {a b : Byte} (x : List Byte)

theorem decodePacket_short (hne : p ≠ []) (h : p.length < 2) : decodePacket c p = .ok (.drop p) := by
  match p with
  | [] => exact absurd rfl hne
  | [_] => rfl
  | _ :: _ :: _ => simp at h

theorem decodePacket_mismatch (h : a ≠ b) : decodePacket c (a :: b :: x) = .ok (.drop (a :: b :: x)) := by
  simp [decodePacket, byTag, h]

theorem decodePacket_termspecQuery :
    decodePacket c (withHeader c.T_TERMSPEC_QUERY x) = .ok (.termspecQuery x) := by
  simp [decodePacket, byTag, withHeader]

theorem decodePacket_keyPoll (hc : c.Ok) : decodePacket c (withHeader c.T_KEY_POLL x) = .ok (.keyPoll x) := by
  obtain ⟨hq, -⟩ := hc.tags_distinct
  simp [decodePacket, byTag, withHeader, hq]

theorem decodePacket_displayWrite (hc : c.Ok) :
    decodePacket c (withHeader c.T_DISPLAY_WRITE x) = .ok (.displayWrite x) := by
  obtain ⟨-, ⟨hq, hk⟩, -⟩ := hc.tags_distinct
  simp [decodePacket, byTag, withHeader, hq, hk]

theorem decodePacket_interrupt (hc : c.Ok) : decodePacket c (withHeader T_INTERRUPT x) = .ok (.interrupt x) := by
  obtain ⟨-, -, hq, hk, hd⟩ := hc.tags_distinct
  simp [decodePacket, byTag, withHeader, hq, hk, hd]

theorem decodePacket_unknown
    (h : a ∉ [c.T_TERMSPEC_QUERY, c.T_KEY_POLL, c.T_DISPLAY_WRITE, T_INTERRUPT]) :
    decodePacket c (withHeader a x) = .ok (.drop (withHeader a x)) := by
  simp only [List.mem_cons, List.not_mem_nil, or_false, not_or] at h
  obtain ⟨hq, hk, hd, hi⟩ := h
  simp [decodePacket, byTag, withHeader, hq, hk, hd, hi]

theorem dropReason_short (h : p.length < 2) : dropReason p = .short := by
  match p with
  | [] => rfl
  | [_] => rfl
  | _ :: _ :: _ => simp at h

theorem dropReason_mismatch (h : a ≠ b) : dropReason (a :: b :: x) = .mismatch := if_pos h

theorem dropReason_unknown (a : Byte) : dropReason (withHeader a x) = .unknown := if_neg (not_not_intro rfl)

end Packets

namespace Machine

variable {s : State}

/-- The `END` that closes a frame runs what the packet held decodes to, with nothing held any more. -/
theorem exec_endOfFrame_of_decode {p : Packet} {i : Instr} (hp : s.rx.bytes = some p)
    (hi : decodePacket s.cfg p = .ok i) : exec .endOfFrame s = exec i s.clearRx :=
  (exec_endOfFrame hp).trans (deliver_eq_exec hi)

/-! ## A reply sent whole, and a reply cut by the transport -/

/-- Exactly these bytes went out; of the draw `room` is left. -/
def sentReply (sent : List Byte) (room : Option Nat) (s : State) : State :=
  { s with trace := s.trace ++ sent.map .tx, txRoom := room }

/-- Exactly these bytes went out, then the transport failed and the block halted (R146). -/
def cutReply (sent : List Byte) (s : State) : State := halt .xport (sentReply sent (some 0) s)

section Replies

variable (sent : List Byte) (room : Option Nat)

@[simp] theorem sentReply_trace (s : State) : (sentReply sent room s).trace = s.trace ++ sent.map .tx := rfl

@[simp] theorem cutReply_trace (s : State) :
    (cutReply sent s).trace = s.trace ++ sent.map .tx ++ [.raised (.halt .xport)] := rfl

/-- A reply sent writes the record and the draw, and nothing else. -/
theorem sentReply_frame (s : State) :
    sentReply sent room s =
      { s with trace := (sentReply sent room s).trace, txRoom := (sentReply sent room s).txRoom } := rfl

/-- A reply cut writes `run` and `halt_cause` besides. -/
theorem cutReply_frame (s : State) :
    cutReply sent s =
      { s with
        trace := (cutReply sent s).trace, txRoom := (cutReply sent s).txRoom, run := .halted, haltCause := .xport } :=
  rfl

/-- The streams after a cut: the bytes that went out, and the halt. -/
theorem cutReply_streams (s : State) :
    (cutReply sent s).txOut = s.txOut ++ sent ∧ (cutReply sent s).dispOut = s.dispOut ∧
      (cutReply sent s).raisedOut = s.raisedOut ++ [.halt .xport] := by
  obtain ⟨htx, hdisp, hraised⟩ := State.views_of_tx (sentReply_trace sent (some 0) s)
  refine ⟨?_, ?_, ?_⟩
  · rw [← htx]
    exact raise_txOut _ _
  · rw [← hdisp]
    exact raise_dispOut _ _
  · rw [← hraised]
    exact raise_raisedOut _ _

end Replies

variable {p : Packet} (onOk : State → State)

/-- Where the draw has room for the frame, all of it goes out. -/
theorem sendOrHalt_of_room (h : s.RoomFor (frame s.cfg p).length) :
    ∃ room, sendOrHalt p onOk s = onOk (sentReply (frame s.cfg p) room s) := by
  rcases sendOrHalt_cases p onOk s with ⟨hroom, hsend⟩ | ⟨k, -, -, hsend⟩ | ⟨k, hroom, hk, -⟩
  · exact ⟨none, by rw [hsend, sentReply, ← hroom]⟩
  · exact ⟨_, hsend⟩
  · exact absurd (h k hroom) (by omega)

/-- Where the draw is shorter than the frame, that much of it goes out. -/
theorem sendOrHalt_of_cut {k : Nat} (hroom : s.txRoom = some k) (hk : k < (frame s.cfg p).length) :
    sendOrHalt p onOk s = cutReply ((frame s.cfg p).take k) s := by
  rw [sendOrHalt, send_eq, emitAll_cut hroom _ hk]
  rfl

/-! ## The opcodes and the drop -/

theorem exec_termspecQuery (extra : List Byte) (s : State) :
    exec (.termspecQuery extra) s =
      .next (sendOrHalt (withHeader s.cfg.T_TERMSPEC_QUERY s.cfg.TERMSPEC_ID) id s) := rfl

theorem exec_keyPoll {keys : List Byte} (h : s.kb.bytes = some keys) (extra : List Byte) :
    exec (.keyPoll extra) s = .next (sendOrHalt (withHeader s.cfg.T_KEY_POLL keys) State.clearKb s) := by
  simp [exec, execKeyPoll, kbKeys, keysPacket, h]

theorem exec_displayWrite (payload : List Byte) (s : State) :
    exec (.displayWrite payload) s =
      .next (sendOrHalt (withHeader s.cfg.T_DISPLAY_WRITE []) id
        { s with trace := s.trace ++ payload.map .disp }) := by
  rw [← emitDispAll_eq]
  rfl

theorem exec_interrupt (extra : List Byte) (s : State) : exec (.interrupt extra) s = .next (halt .interrupt s) := rfl

theorem exec_drop (p : Packet) (s : State) : exec (.drop p) s = .next (raise (.protocolDrop (dropReason p)) s) := rfl

/-- A halt writes `run`, `halt_cause` and the record, and nothing else (R147). -/
theorem halt_frame (c : HaltCause) (s : State) :
    halt c s = { s with run := .halted, haltCause := c, trace := (halt c s).trace } := rfl

/-- A drop writes `f_drop` and the record, and nothing else (R102). -/
theorem raise_protocolDrop_frame (r : DropReason) (s : State) :
    raise (.protocolDrop r) s = { s with fDrop := true, trace := (raise (.protocolDrop r) s).trace } := rfl

/-! ## A halted block (R18, R101) -/

/-- A halted block lets every event but `Reset` pass. -/
theorem step_of_halted (hc : s.cfg.Ok) (hrun : s.run = .halted) {e : Event} {rest : List Event}
    (hin : s.inputs = e :: rest) (he : e ≠ .reset) : step s = .next (s.setInputs rest) := by
  rcases step_cases s with ⟨hbad, -⟩ | ⟨-, hnil, -⟩ | ⟨_, -, hreset, -⟩ | ⟨_, _, -, hin', -, -, hstep⟩ |
    ⟨_, _, _, -, -, hrunning, -⟩ | ⟨_, _, -, -, hrunning, -⟩ | ⟨_, _, -, -, hrunning, -⟩ | ⟨_, -, -, hrunning, -⟩
  · exact absurd hc hbad
  · simp [hin] at hnil
  · simp [hin, he] at hreset
  · obtain ⟨-, rfl⟩ := List.cons.inj (hin.symm.trans hin')
    exact hstep
  all_goals simp [hrun] at hrunning

theorem run_succ_of_step {t : State} (h : step s = .next t) (n : Nat) :
    Host.Core.run core (n + 1) s = Host.Core.run core n t := by
  have h' : core.step s = .next t := h
  simp only [Host.Core.run, h']

/-- However many events without a `Reset` reach a halted block, they leave it as it was. -/
theorem run_of_halted (hc : s.cfg.Ok) (hrun : s.run = .halted) {es : List Event} (hes : .reset ∉ es) :
    Host.Core.run core es.length (s.setInputs es) = .next (s.setInputs []) := by
  induction es with
  | nil => rfl
  | cons e es ih =>
    obtain ⟨he, hes⟩ := List.ne_and_not_mem_of_not_mem_cons hes
    have hstep : step (s.setInputs (e :: es)) = .next (s.setInputs es) :=
      step_of_halted (s := s.setInputs (e :: es)) hc hrun rfl he.symm
    exact (run_succ_of_step hstep es.length).trans (ih hes)

end Machine

end Sys2Proof
end

section
/-! The statements of spec/42_dispatcher.md. -/

namespace Sys2Proof

open Machine

/-- Settles O12: the packet held decodes by one of the arms' equations, and closing the frame runs what it decodes to. -/
theorem dispatchOrder : Obligations.DispatchOrder := by
  intro s p hc hp hne
  have hrun : ∀ {i}, decodePacket s.cfg p = .ok i → exec .endOfFrame s = exec i s.clearRx :=
    exec_endOfFrame_of_decode hp
  refine ⟨s.clearRx, rfl, rfl, fun h => ⟨hrun (decodePacket_short hne h), dropReason_short h⟩, ?_⟩
  rintro a b x rfl
  refine ⟨fun h => ⟨hrun (decodePacket_mismatch x h), dropReason_mismatch x h⟩, ?_, ?_, ?_, ?_, ?_⟩ <;> rintro rfl h
  · exact hrun (h ▸ decodePacket_termspecQuery x)
  · exact hrun (h ▸ decodePacket_keyPoll x hc)
  · exact hrun (h ▸ decodePacket_displayWrite x hc)
  · exact hrun (h ▸ decodePacket_interrupt x hc)
  · exact ⟨hrun (decodePacket_unknown x h), dropReason_unknown x a⟩

/-- Settles O13: the reply is one `send` that nothing follows, whole or cut. -/
theorem termspecQueryReplies : Obligations.TermspecQueryReplies := by
  rintro extra s f rfl
  rw [exec_termspecQuery]
  refine ⟨fun hroom => ?_, fun k hroom hk => ?_⟩
  · obtain ⟨room, hsend⟩ := sendOrHalt_of_room id hroom
    exact ⟨_, congrArg _ hsend, sentReply_frame _ room s, sentReply_trace _ room s⟩
  · exact ⟨_, congrArg _ (sendOrHalt_of_cut id hroom hk), cutReply_frame _ s, cutReply_streams _ s⟩

/-- Settles O14: the bound is `repliesFitMaxPacket`'s; the drain follows the `send` that succeeds, and only that one. -/
theorem keyPollSendsKeysAndDrains : Obligations.KeyPollSendsKeysAndDrains := by
  rintro extra keys s f hkeys rfl
  rw [exec_keyPoll hkeys]
  refine ⟨fun hinv => ?_, fun hroom => ?_, fun k hroom hk => ?_⟩
  · obtain ⟨-, hlen, hheld, hcap, -⟩ := repliesFitMaxPacket s keys hinv hkeys
    exact hlen.trans_le (hheld.trans hcap)
  · obtain ⟨room, hsend⟩ := sendOrHalt_of_room State.clearKb hroom
    exact ⟨_, congrArg _ hsend, rfl, rfl, sentReply_trace _ room s⟩
  · exact ⟨_, congrArg _ (sendOrHalt_of_cut State.clearKb hroom hk), cutReply_frame _ s, cutReply_streams _ s⟩

/-- Settles O15: the acknowledgment is a `send` from the state that has displayed the payload, which differs from the
first one in the record only. -/
theorem displayWriteThenAcknowledges : Obligations.DisplayWriteThenAcknowledges := by
  rintro payload s f rfl
  rw [exec_displayWrite]
  refine ⟨fun hroom => ?_, fun k hroom hk => ?_⟩
  · obtain ⟨room, hsend⟩ := sendOrHalt_of_room (s := { s with trace := s.trace ++ payload.map .disp }) id hroom
    exact ⟨_, congrArg _ hsend, rfl, sentReply_trace _ room _⟩
  · exact ⟨_, congrArg _ (sendOrHalt_of_cut id hroom hk), rfl, cutReply_trace _ _⟩

/-- Settles O16: the packet halts the block, and a halted block's run does nothing with its events. -/
theorem interruptHaltsSilently : Obligations.InterruptHaltsSilently := by
  intro extra s hc
  exact ⟨_, exec_interrupt extra s, halt_frame .interrupt s, raise_txOut s _, raise_dispOut s _, raise_raisedOut s _,
    fun _ hes => run_of_halted (s := halt .interrupt s) hc rfl hes⟩

/-- Settles O17: a drop is one `raise`, with the reason of the packet. -/
theorem dropSetsItsFlagOnly : Obligations.DropSetsItsFlagOnly := by
  intro p s
  refine ⟨_, dropReason p, exec_drop p s, raise_protocolDrop_frame _ s, raise_txOut s _, raise_dispOut s _,
    raise_raisedOut s _, dropReason_short, ?_⟩
  rintro a b x rfl
  refine ⟨dropReason_mismatch x, ?_⟩
  rintro rfl
  exact dropReason_unknown x a

end Sys2Proof
end

section
/-! SUPPORT. The facts the keystroke FIFO's statements share: a step takes the oldest event, and one equation per case of
`Key(k)` in a running block (spec/43_keystroke_fifo.md R116, R118). -/

namespace Sys2Proof.Machine

variable {s : State}

/-- Under an Ok configuration a step is its oldest event, taken from the schedule. -/
theorem step_eq_takeEvent (hc : s.cfg.Ok) {e : Event} {rest : List Event} (hin : s.inputs = e :: rest) :
    step s = takeEvent e (s.setInputs rest) := by
  simp only [step, if_pos hc, nextEvent, hin]

theorem key_of_room (hrun : s.run = .running) (hroom : s.kb.len < s.cfg.KB_CAP) (k : Byte) :
    key k s = s.setKb (s.kb.push k) := by
  simp only [key, hrun, if_pos hroom]

theorem key_of_full (hrun : s.run = .running) (hfull : s.cfg.KB_CAP ≤ s.kb.len) (k : Byte) :
    key k s = raise (.kbOverflow k) s := by
  simp only [key, hrun, if_neg hfull.not_gt]

/-- A refused key writes `f_kb_ovf` and the record, and nothing else (R118). -/
theorem raise_kbOverflow_frame (k : Byte) (s : State) :
    raise (.kbOverflow k) s = { s with fKbOvf := true, trace := (raise (.kbOverflow k) s).trace } := rfl

end Sys2Proof.Machine
end

section
/-! The statements of spec/43_keystroke_fifo.md. -/

namespace Sys2Proof

open Machine

/-- Settles O20: with room the key is pushed, when full it is raised as an overflow, and a halted block takes no key. -/
theorem keyAppendsRefusesOrIsIgnored : Obligations.KeyAppendsRefusesOrIsIgnored := by
  intro s k rest hc hin
  have hstep : step s = .next (key k (s.setInputs rest)) := step_eq_takeEvent hc hin
  refine ⟨fun hrun hroom => ?_, fun hrun hfull => ?_, fun hrun => step_of_halted hc hrun hin nofun⟩
  · rw [key_of_room (s := s.setInputs rest) hrun hroom] at hstep
    exact ⟨_, hstep, rfl, s.kb.push_len k, s.kb.push_read_same k, fun _ ha => Buffer.push_read_other ha k⟩
  · rw [key_of_full (s := s.setInputs rest) hrun hfull.ge] at hstep
    exact ⟨_, hstep, raise_kbOverflow_frame k _, raise_txOut _ _, raise_dispOut _ _, raise_raisedOut _ _⟩

end Sys2Proof
end

section
/-! SUPPORT. The facts the session loop's statements share: what each kind of event can do to `tx_out` and to `run`
(spec/44_session_loop.md R125, R131, R133), down to the one delivery that answers a request (R98 to R100, R146). -/

namespace Sys2Proof.Machine

variable {s t : State}

/-! ## A received byte (R66 to R78) -/

theorem store_txOut (v : Byte) (s : State) : (store v s).txOut = s.txOut := by
  by_cases h : s.rx.len < s.cfg.RX_CAP
  · rw [store_of_room h]
    rfl
  · rw [store_of_full (not_lt.mp h), abandonFrame_txOut]

theorem store_run (v : Byte) (s : State) : (store v s).run = s.run := by
  by_cases h : s.rx.len < s.cfg.RX_CAP
  · rw [store_of_room h]
  · rw [store_of_full (not_lt.mp h)]
    rfl

/-- A received byte sends nothing and leaves `run` alone, unless it is the boundary that closes a frame. -/
theorem exec_decodeSymbol_cases (c : Config) (m : RxState) (len : Nat) (b : Byte) (s : State) :
    (∃ t, exec (decodeSymbol c m len b) s = .next t ∧ t.txOut = s.txOut ∧ t.run = s.run) ∨
    (m = .normal ∧ 0 < len ∧ b = c.END) := by
  unfold decodeSymbol
  cases m with
  | normal =>
    dsimp only
    split_ifs with hend hlen hesc
    · exact .inl ⟨_, rfl, rfl, rfl⟩
    · exact .inr ⟨rfl, Nat.pos_of_ne_zero hlen, hend⟩
    · exact .inl ⟨_, rfl, rfl, rfl⟩
    · exact .inl ⟨_, rfl, store_txOut b s, store_run b s⟩
  | esc =>
    dsimp only
    split_ifs with hescEnd hescEsc hend
    · exact .inl ⟨_, rfl, store_txOut _ s, store_run _ s⟩
    · exact .inl ⟨_, rfl, store_txOut _ s, store_run _ s⟩
    · exact .inl ⟨_, exec_endAfterEsc, abandonFrame_txOut _ _ s, rfl⟩
    · exact .inl ⟨_, exec_badEscape b, abandonFrame_txOut _ _ s, rfl⟩
  | discard =>
    dsimp only
    split_ifs with hend <;> exact .inl ⟨_, rfl, rfl, rfl⟩

/-! ## The answer to a request (R103, R146) -/

/-- `t` is `s` after the reply `f`: all of it went out and the block runs on as before, or the transport cut it and the
block halted. -/
def State.Replied (s : State) (f : List Byte) (t : State) : Prop :=
  (s.RoomFor f.length → t.txOut = s.txOut ++ f ∧ t.run = s.run) ∧
  ∀ k, s.txRoom = some k → k < f.length → t.run = .halted ∧ t.haltCause = .xport ∧ t.txOut = s.txOut ++ f.take k

/-- The draw decides: a cut within the reply, or room for all of it. -/
theorem State.room_or_cut (s : State) (n : Nat) : (∃ k, s.txRoom = some k ∧ k < n) ∨ s.RoomFor n := by
  by_cases h : s.RoomFor n
  · exact .inr h
  · simp only [State.RoomFor, not_forall, not_le] at h
    obtain ⟨k, hk, hlt⟩ := h
    exact .inl ⟨k, hk, hlt⟩

/-- What went out is the reply from its first byte on. -/
theorem State.Replied.txOut_eq {f : List Byte} (h : s.Replied f t) : ∃ k, t.txOut = s.txOut ++ f.take k := by
  obtain ⟨hwhole, hcut⟩ := h
  rcases s.room_or_cut f.length with ⟨k, hk, hlt⟩ | hroom
  · exact ⟨k, (hcut k hk hlt).2.2⟩
  · exact ⟨f.length, by rw [List.take_length, (hwhole hroom).1]⟩

/-- A block that ran before the reply and is halted after it was cut within it. -/
theorem State.Replied.cut_of_halted {f : List Byte} (h : s.Replied f t) (hs : s.run = .running)
    (ht : t.run = .halted) : ∃ k, s.txRoom = some k ∧ k < f.length := by
  refine (s.room_or_cut f.length).resolve_right fun hroom => ?_
  have hrun : t.run = s.run := (h.1 hroom).2
  simp [hs, ht] at hrun

/-- One `send` is a reply, if what follows its success leaves `tx_out` and `run` alone. -/
theorem sendOrHalt_replied (p : Packet) {onOk : State → State}
    (hok : ∀ u : State, (onOk u).txOut = u.txOut ∧ (onOk u).run = u.run) (s : State) :
    s.Replied (frame s.cfg p) (sendOrHalt p onOk s) := by
  refine ⟨fun hroom => ?_, fun k hk hlt => ?_⟩
  · obtain ⟨room, hsend⟩ := sendOrHalt_of_room onOk hroom
    obtain ⟨htx, hrun⟩ := hok (sentReply (frame s.cfg p) room s)
    rw [hsend, htx, hrun]
    exact ⟨(State.views_of_tx (sentReply_trace _ room s)).1, rfl⟩
  · rw [sendOrHalt_of_cut onOk hk hlt]
    exact ⟨rfl, rfl, (cutReply_streams _ s).1⟩

/-- Delivering a request runs its reply. -/
theorem deliver_of_replyTo (hc : s.cfg.Ok) {p : Packet} {f : List Byte} (h : s.ReplyTo p f) :
    ∃ t, deliver p s = .next t ∧ s.Replied f t := by
  rcases h with ⟨x, rfl, rfl⟩ | ⟨x, keys, rfl, hkeys, rfl⟩ | ⟨x, rfl, rfl⟩
  · rw [deliver_eq_exec (decodePacket_termspecQuery x), exec_termspecQuery]
    exact ⟨_, rfl, sendOrHalt_replied (onOk := id) _ (fun _ => ⟨rfl, rfl⟩) s⟩
  · rw [deliver_eq_exec (decodePacket_keyPoll x hc), exec_keyPoll hkeys]
    exact ⟨_, rfl, sendOrHalt_replied (onOk := State.clearKb) _ (fun _ => ⟨rfl, rfl⟩) s⟩
  · rw [deliver_eq_exec (decodePacket_displayWrite x hc), exec_displayWrite]
    refine ⟨_, rfl, ?_⟩
    have hreply := sendOrHalt_replied (onOk := id) (withHeader s.cfg.T_DISPLAY_WRITE []) (fun _ => ⟨rfl, rfl⟩)
      { s with trace := s.trace ++ x.map .disp }
    have htx : State.txOut { s with trace := s.trace ++ x.map .disp } = s.txOut :=
      (State.views_of_disp (s := s) (bs := x) rfl).2.1
    rwa [State.Replied, htx] at hreply

theorem deliver_interrupt (hc : s.cfg.Ok) (x : List Byte) :
    deliver (withHeader T_INTERRUPT x) s = .next (halt .interrupt s) :=
  (deliver_eq_exec (decodePacket_interrupt x hc)).trans (exec_interrupt x s)

/-- A request that has a reply is well-formed (R96). -/
theorem State.ReplyTo.isRequest {p : Packet} {f : List Byte} (h : s.ReplyTo p f) : isRequest s.cfg p = true := by
  rcases h with ⟨x, rfl, -⟩ | ⟨x, keys, rfl, -, -⟩ | ⟨x, rfl, -⟩ <;> simp [Sys2Proof.isRequest, withHeader]

/-- Everything a delivery can do to `tx_out` and `run`: nothing, the halt of INTERRUPT, or the reply to a request. -/
theorem deliver_effects (hc : s.cfg.Ok) (hkb : s.kb.Filled) {p : Packet} (h : deliver p s = .next t) :
    (t.txOut = s.txOut ∧ t.run = s.run) ∨
    (∃ x, p = withHeader T_INTERRUPT x ∧ t = halt .interrupt s) ∨
    (∃ f, s.ReplyTo p f ∧ s.Replied f t) := by
  have of_reply : ∀ {f}, s.ReplyTo p f → ∃ f, s.ReplyTo p f ∧ s.Replied f t := by
    intro f hf
    obtain ⟨u, hu, hreply⟩ := deliver_of_replyTo hc hf
    cases hu.symm.trans h
    exact ⟨f, hf, hreply⟩
  rcases deliver_cases s p with ⟨-, hd⟩ | ⟨-, -, hd⟩ | ⟨x, hp, -⟩ | ⟨x, hp, -⟩ | ⟨x, hp, -⟩ | ⟨x, hp, hd⟩
  · cases hd.symm.trans h
    exact .inl ⟨rfl, rfl⟩
  · cases hd.symm.trans h
    exact .inl ⟨raise_txOut s _, rfl⟩
  · exact .inr (.inr (of_reply (.inl ⟨x, hp, rfl⟩)))
  · obtain ⟨keys, hkeys⟩ := hkb.bytes
    exact .inr (.inr (of_reply (.inr (.inl ⟨x, keys, hp, hkeys, rfl⟩))))
  · exact .inr (.inr (of_reply (.inr (.inr ⟨x, hp, rfl⟩))))
  · cases hd.symm.trans h
    exact .inr (.inl ⟨x, hp, rfl⟩)

/-! ## One step -/

theorem step_of_idle (hc : s.cfg.Ok) (hin : s.inputs = []) : step s = .next s := by
  simp only [step, if_pos hc, nextEvent, hin]

theorem step_of_xportFail (hc : s.cfg.Ok) (hrun : s.run = .running) {rest : List Event}
    (hin : s.inputs = .xportFail :: rest) : step s = .next (halt .xport (s.setInputs rest)) := by
  simp [step_eq_takeEvent hc hin, takeEvent, xportFail, hrun]

/-- The state a packet is delivered in (R68): its closing boundary taken, nothing held any more. -/
def delivering (draw : Option Nat) (rest : List Event) (s : State) : State :=
  ((s.setInputs rest).setTxRoom draw).clearRx

/-- The step at a closing boundary delivers the packet held. -/
theorem step_of_closes (hc : s.cfg.Ok) {p : Packet} {draw : Option Nat} {rest : List Event}
    (h : s.Closes p draw rest) : step s = deliver p (delivering draw rest s) := by
  obtain ⟨hrun, hm, hlen, hp, hin⟩ := h
  have hfetch : fetchSymbol s.cfg.END (s.setInputs rest) = .endOfFrame := by
    simp only [fetchSymbol, State.setInputs_cfg, State.setInputs_rxState, State.setInputs_rx, hm]
    exact decodeSymbol_normal_end hlen
  simp only [step_eq_takeEvent hc hin, takeEvent, rxByte, State.setInputs_run, hrun, hfetch]
  exact exec_endOfFrame hp

/-- Everything a step can do to `tx_out` and `run`: start again, nothing, the halt of a transport failure outside a
reply, or what a delivery does. -/
theorem step_effects (hinv : s.Inv) (h : step s = .next t) :
    (∃ rest, s.inputs = .reset :: rest ∧ t.run = .running) ∨
    (t.txOut = s.txOut ∧ t.run = s.run) ∨
    (∃ rest, s.inputs = .xportFail :: rest ∧ t = halt .xport (s.setInputs rest)) ∨
    (∃ p draw rest, s.Closes p draw rest ∧ deliver p (delivering draw rest s) = .next t) := by
  obtain ⟨hc, hrx, -⟩ := hinv
  rcases step_cases s with ⟨hbad, -⟩ | ⟨-, -, hstep⟩ | ⟨rest, -, hin, hstep⟩ | ⟨e, rest, -, -, -, -, hstep⟩ |
    ⟨b, draw, rest, -, hin, hrun, hstep⟩ | ⟨k, rest, -, -, -, -, hstep⟩ | ⟨k, rest, -, -, -, -, hstep⟩ |
    ⟨rest, -, hin, -, hstep⟩
  · exact absurd hc hbad
  · cases hstep.symm.trans h
    exact .inr (.inl ⟨rfl, rfl⟩)
  · cases hstep.symm.trans h
    exact .inl ⟨rest, hin, rfl⟩
  · cases hstep.symm.trans h
    exact .inr (.inl ⟨rfl, rfl⟩)
  · rcases exec_decodeSymbol_cases s.cfg s.rxState s.rx.len b ((s.setInputs rest).setTxRoom draw) with
      ⟨u, hu, htx, hr⟩ | ⟨hm, hlen, rfl⟩
    · cases hu.symm.trans (hstep.symm.trans h)
      exact .inr (.inl ⟨htx, hr⟩)
    · obtain ⟨p, hp⟩ := hrx.bytes
      have hcloses : s.Closes p draw rest := ⟨hrun, hm, hlen, hp, hin⟩
      exact .inr (.inr (.inr ⟨p, draw, rest, hcloses, (step_of_closes hc hcloses).symm.trans h⟩))
  · cases hstep.symm.trans h
    exact .inr (.inl ⟨rfl, rfl⟩)
  · cases hstep.symm.trans h
    exact .inr (.inl ⟨raise_txOut _ _, rfl⟩)
  · cases hstep.symm.trans h
    exact .inr (.inr (.inl ⟨rest, hin, rfl⟩))

end Sys2Proof.Machine
end

section
/-! The statements of spec/44_session_loop.md. -/

namespace Sys2Proof

open Machine

/-- Settles O39: of all a step can do, only the reply to a delivered request makes `tx_out` grow. -/
theorem noUnsolicitedOutput : Obligations.NoUnsolicitedOutput := by
  refine ⟨fun s hc hin => step_of_idle hc hin, fun s t hinv hstep hreset hne => ?_⟩
  have ⟨hc, _, _, hkb, _⟩ := hinv
  rcases step_effects hinv hstep with ⟨rest, hin, -⟩ | ⟨htx, -⟩ | ⟨rest, -, rfl⟩ | ⟨p, draw, rest, hcloses, hd⟩
  · exact absurd hin (hreset rest)
  · exact absurd htx hne
  · exact absurd (raise_txOut _ _) hne
  · rcases deliver_effects (s := delivering draw rest s) hc hkb hd with ⟨htx, -⟩ | ⟨x, -, rfl⟩ | ⟨f, hreply, hsent⟩
    · exact absurd htx hne
    · exact absurd (raise_txOut _ _) hne
    · obtain ⟨k, hk⟩ := hsent.txOut_eq
      exact ⟨p, draw, rest, f, k, hcloses, hreply.isRequest, hreply, hk⟩

/-- Settles O41: the three causes each halt, by what a delivery and a transport failure do; a step that halts a running
block is one of them, since a reply leaves `run` alone unless the draw cuts it. -/
theorem haltsInExactlyTwoWays : Obligations.HaltsInExactlyTwoWays := by
  refine ⟨fun s x draw rest ⟨hc, _⟩ hcloses => ?_, fun s rest ⟨hc, _⟩ hrun hin => ?_,
    fun s p f k rest ⟨hc, _⟩ hcloses hreply hk => ?_, fun s t hinv hrun hstep ht => ?_⟩
  · exact ⟨_, (step_of_closes hc hcloses).trans (deliver_interrupt (s := delivering draw rest s) hc x), rfl, rfl,
      raise_txOut _ _⟩
  · exact ⟨_, step_of_xportFail hc hrun hin, rfl, rfl, raise_txOut _ _⟩
  · obtain ⟨t, hd, -, hcut⟩ := deliver_of_replyTo (s := delivering (some k) rest s) hc hreply
    exact ⟨t, (step_of_closes hc hcloses).trans hd, hcut k rfl hk⟩
  · have ⟨hc, _, _, hkb, _⟩ := hinv
    have hhalt : t.run ≠ s.run := by simp [hrun, ht]
    rcases step_effects hinv hstep with ⟨_, -, hr⟩ | ⟨-, hr⟩ | ⟨rest, hin, -⟩ | ⟨p, draw, rest, hcloses, hd⟩
    · simp [ht] at hr
    · exact absurd hr hhalt
    · exact .inr (.inl ⟨rest, hin⟩)
    · rcases deliver_effects (s := delivering draw rest s) hc hkb hd with ⟨-, hr⟩ | ⟨x, rfl, -⟩ | ⟨f, hreply, hsent⟩
      · exact absurd hr hhalt
      · exact .inl ⟨x, draw, rest, hcloses⟩
      · obtain ⟨k, hdraw, hk⟩ := hsent.cut_of_halted hrun ht
        cases show draw = some k from hdraw
        exact .inr (.inr ⟨p, f, k, rest, hcloses, hreply, hk⟩)

end Sys2Proof
end

section
/-! The statements of spec/60_exceptions.md. -/

namespace Sys2Proof

open Machine

/-- Settles O21: in a running block the step is one `halt`, which writes `run`, `halt_cause` and the record only; a
halted block lets the event pass. -/
theorem xportFailHalts : Obligations.XportFailHalts := by
  intro s rest hc hin
  refine ⟨fun hrun => ?_, fun hrun => step_of_halted hc hrun hin nofun⟩
  exact ⟨_, step_of_xportFail hc hrun hin, halt_frame .xport (s.setInputs rest), raise_txOut _ _, raise_dispOut _ _,
    raise_raisedOut _ _⟩

end Sys2Proof
end

section
/-! SUPPORT. What the `Reset` event does (spec/70_reset_and_hazards.md R170). -/

namespace Sys2Proof.Machine

variable {s : State}

/-- A pending `Reset` leaves the reset state of the same `CFG`, whatever the block was doing; the schedule goes on. -/
theorem step_of_reset (hc : s.cfg.Ok) {rest : List Event} (hin : s.inputs = .reset :: rest) :
    step s = .next ((State.resetWith s.cfg).setInputs rest) :=
  step_eq_takeEvent hc hin

end Sys2Proof.Machine
end

section
/-! The statements of spec/70_reset_and_hazards.md. -/

namespace Sys2Proof

open Machine

/-- Settles O2: the step leaves the reset state of the same `CFG`, whose fields are the reset values and whose record is
empty. -/
theorem resetEventLeavesResetValues : Obligations.ResetEventLeavesResetValues := by
  intro s rest hc hin
  exact ⟨_, step_of_reset hc hin, by simp [State.resetWith, State.txOut, State.dispOut]⟩

end Sys2Proof
end

section
/-! SUPPORT. The facts the statements of spec/30_encoding.md share: each layer's decoder against the encoder, of a wire
byte (R66, R78), a delivered packet (R95, R96) and a reply (R52), and the header as one value (R48). -/

namespace Sys2Proof

open Machine

variable {c : Config}

/-! ## A wire byte -/

/-- What the decoder reads from a byte is a row of the context, well-formed, and encoded by that byte. -/
theorem decodeSymbol_row (c : Config) (m : RxState) (len : Nat) (b : Byte) :
    (decodeSymbol c m len b).inLayer (.symbol m len) = true ∧ (decodeSymbol c m len b).wellFormed c = true ∧
      encode c (decodeSymbol c m len b) = [b] := by
  unfold decodeSymbol
  cases m with
  | normal =>
    dsimp only
    split_ifs with hend hlen hesc
    · simp [Instr.inLayer, Instr.wellFormed, encode, hend, hlen]
    · simp [Instr.inLayer, Instr.wellFormed, encode, hend, hlen]
    · simp [Instr.inLayer, Instr.wellFormed, encode, hesc]
    · simp [Instr.inLayer, Instr.wellFormed, encode, hend, hesc]
  | esc =>
    dsimp only
    split_ifs with hescEnd hescEsc hend
    · simp [Instr.inLayer, Instr.wellFormed, encode, hescEnd]
    · simp [Instr.inLayer, Instr.wellFormed, encode, hescEsc]
    · simp [Instr.inLayer, Instr.wellFormed, encode, hend]
    · simp [Instr.inLayer, Instr.wellFormed, encode, hescEnd, hescEsc, hend]
  | discard =>
    dsimp only
    split_ifs with hend
    · simp [Instr.inLayer, Instr.wellFormed, encode, hend]
    · simp [Instr.inLayer, Instr.wellFormed, encode, hend]

/-- A well-formed row of a context is encoded by one byte, and that byte selects it there. -/
theorem decodeSymbol_encode (hc : c.Ok) {i : Instr} {m : RxState} {len : Nat} (hw : i.wellFormed c = true)
    (hl : i.inLayer (.symbol m len) = true) : ∃ b, encode c i = [b] ∧ decodeSymbol c m len b = i := by
  cases m with
  | normal =>
    cases i <;> simp only [Instr.inLayer, Bool.false_eq_true] at hl
    case endEmptyFrame =>
      cases (show len = 0 by simpa using hl)
      exact ⟨c.END, rfl, decodeSymbol_normal_end_empty⟩
    case endOfFrame => exact ⟨c.END, rfl, decodeSymbol_normal_end (Nat.pos_of_ne_zero (by simpa using hl))⟩
    case esc => exact ⟨c.ESC, rfl, decodeSymbol_normal_esc hc⟩
    case literal b =>
      obtain ⟨hend, hesc⟩ : b ≠ c.END ∧ b ≠ c.ESC := by simpa [Instr.wellFormed] using hw
      exact ⟨b, rfl, decodeSymbol_normal_literal hend hesc⟩
    all_goals simp at hl
  | esc =>
    cases i <;> simp only [Instr.inLayer, Bool.false_eq_true] at hl
    case escEnd => exact ⟨c.ESC_END, rfl, decodeSymbol_esc_escEnd⟩
    case escEsc => exact ⟨c.ESC_ESC, rfl, decodeSymbol_esc_escEsc hc⟩
    case endAfterEsc => exact ⟨c.END, rfl, decodeSymbol_esc_end hc⟩
    case badEscape b =>
      obtain ⟨⟨h1, h2⟩, h3⟩ : (b ≠ c.ESC_END ∧ b ≠ c.ESC_ESC) ∧ b ≠ c.END := by
        simpa [Instr.wellFormed] using hw
      exact ⟨b, rfl, decodeSymbol_esc_other h1 h2 h3⟩
    all_goals simp at hl
  | discard =>
    cases i <;> simp only [Instr.inLayer, Bool.false_eq_true] at hl
    case endResync => exact ⟨c.END, rfl, decodeSymbol_discard_end⟩
    case discarded b => exact ⟨b, rfl, decodeSymbol_discard_other (by simpa [Instr.wellFormed] using hw)⟩
    all_goals simp at hl

/-! ## A delivered packet -/

theorem isRequest_withHeader {tag : Byte}
    (h : tag ∈ [c.T_TERMSPEC_QUERY, c.T_KEY_POLL, c.T_DISPLAY_WRITE, T_INTERRUPT]) (x : List Byte) :
    isRequest c (withHeader tag x) = true := by
  simpa [isRequest, withHeader, or_assoc] using h

/-- Every packet that is not well-formed is the default row (R95, R96). -/
theorem decodePacket_of_not_isRequest {p : Packet} (hne : p ≠ []) (h : isRequest c p = false) :
    decodePacket c p = .ok (.drop p) := by
  match p with
  | [] => exact absurd rfl hne
  | [_] => rfl
  | a :: b :: x =>
    by_cases hab : a = b
    · subst hab
      refine decodePacket_unknown x fun htag => ?_
      cases h.symm.trans (isRequest_withHeader htag x)
    · exact decodePacket_mismatch x hab

/-- What a packet decodes to is a PKT_REQ row with the packet as its encoding; the default row only for a packet that is
no request. -/
theorem decodePacket_row {p : Packet} {i : Instr} (h : decodePacket c p = .ok i) :
    i.inLayer .request = true ∧ encode c i = p ∧ (p.length ≤ c.RX_CAP → i.wellFormed c = true) := by
  match p, h with
  | a :: q, h =>
    simp only [decodePacket, Except.ok.injEq] at h
    rcases byTag_cases (α := Instr) c (a :: q) (.drop (a :: q)) .termspecQuery .keyPoll .displayWrite .interrupt with
      ⟨hreq, hi⟩ | ⟨x, hp, hi⟩ | ⟨x, hp, hi⟩ | ⟨x, hp, hi⟩ | ⟨x, hp, hi⟩
    all_goals
      rw [hi] at h
      subst h
    · exact ⟨rfl, rfl, fun hlen => by simpa [Instr.wellFormed, hreq] using hlen⟩
    all_goals exact ⟨rfl, hp.symm, fun hlen => by simpa [Instr.wellFormed, hp] using hlen⟩

/-! ## A reply -/

theorem decodeReply_termspecReply (x : List Byte) :
    decodeReply c (withHeader c.T_TERMSPEC_QUERY x) = .ok (.termspecReply x) := by
  simp [decodeReply, withHeader]

theorem decodeReply_keysReply (hc : c.Ok) (x : List Byte) :
    decodeReply c (withHeader c.T_KEY_POLL x) = .ok (.keysReply x) := by
  obtain ⟨hq, -⟩ := hc.tags_distinct
  simp [decodeReply, withHeader, hq]

theorem decodeReply_ackReply (hc : c.Ok) : decodeReply c (withHeader c.T_DISPLAY_WRITE []) = .ok .ackReply := by
  obtain ⟨-, ⟨hq, hk⟩, -⟩ := hc.tags_distinct
  simp [decodeReply, withHeader, hq, hk]

/-- What a reply decodes to is a PKT_REPLY row with the reply as its encoding. -/
theorem decodeReply_row {p : Packet} {i : Instr} (h : decodeReply c p = .ok i) :
    i.inLayer .reply = true ∧ encode c i = p := by
  match p, h with
  | a :: b :: x, h =>
    simp only [decodeReply] at h
    split_ifs at h with hab hq hk hd hx
    all_goals
      cases h
      simp only [ne_eq, not_not] at hab
      subst hab
    · exact ⟨rfl, by rw [hq]; rfl⟩
    · exact ⟨rfl, by rw [hk]; rfl⟩
    · exact ⟨rfl, by rw [hd, hx]; rfl⟩

/-! ## The header as one value (R48) -/

theorem header_toNat (a b : Byte) : (header a b).toNat = a.toNat * 256 + b.toNat := by
  rw [header, BitVec.toNat_append, ← Nat.shiftLeft_add_eq_or_of_lt b.isLt, Nat.shiftLeft_eq]

theorem header_inj {a b a' b' : Byte} : header a b = header a' b' ↔ a = a' ∧ b = b' := by
  constructor
  · intro h
    have hnat := congrArg BitVec.toNat h
    rw [header_toNat, header_toNat] at hnat
    have hb := b.isLt
    have hb' := b'.isLt
    exact ⟨BitVec.eq_of_toNat_eq (by omega), BitVec.eq_of_toNat_eq (by omega)⟩
  · rintro ⟨rfl, rfl⟩
    rfl

/-- A packet decodes to the row `i` that carries the tag `tag` exactly when both header bytes are that tag. -/
theorem decodePacket_iff_header {a b tag : Byte} {x : List Byte} {i : Instr} (hi : encode c i = withHeader tag x)
    (hd : decodePacket c (withHeader tag x) = .ok i) :
    decodePacket c (a :: b :: x) = .ok i ↔ header a b = header tag tag := by
  rw [header_inj]
  constructor
  · intro h
    obtain ⟨-, henc, -⟩ := decodePacket_row h
    obtain ⟨ha, htail⟩ := List.cons.inj (henc.symm.trans hi)
    exact ⟨ha, (List.cons.inj htail).1⟩
  · rintro ⟨rfl, rfl⟩
    exact hd

/-- A packet with a header decodes to the default row exactly when the header is none of the four tags' (R95, R96). -/
theorem decodePacket_eq_drop_iff {a b : Byte} {x : List Byte} (hc : c.Ok) :
    decodePacket c (a :: b :: x) = .ok (.drop (a :: b :: x)) ↔
      header a b ∉ [header c.T_TERMSPEC_QUERY c.T_TERMSPEC_QUERY, header c.T_KEY_POLL c.T_KEY_POLL,
        header c.T_DISPLAY_WRITE c.T_DISPLAY_WRITE, header T_INTERRUPT T_INTERRUPT] := by
  simp only [List.mem_cons, List.not_mem_nil, or_false, not_or, header_inj]
  constructor
  · intro h
    refine ⟨?_, ?_, ?_, ?_⟩ <;> rintro ⟨rfl, rfl⟩
    · cases h.symm.trans (decodePacket_termspecQuery x)
    · cases h.symm.trans (decodePacket_keyPoll x hc)
    · cases h.symm.trans (decodePacket_displayWrite x hc)
    · cases h.symm.trans (decodePacket_interrupt x hc)
  · rintro ⟨hq, hk, hd, hi⟩
    by_cases hab : a = b
    · subst hab
      exact decodePacket_unknown x (by simp_all)
    · exact decodePacket_mismatch x hab

end Sys2Proof
end

section
/-! The statements of spec/30_encoding.md. -/

namespace Sys2Proof

open Machine

/-- Settles O25, row by row of the packet layers; a wire byte selects its row. -/
theorem decodeOfEncode : Obligations.DecodeOfEncode := by
  intro c i l hc hw hl
  cases l with
  | symbol m len =>
    obtain ⟨b, henc, hdec⟩ := decodeSymbol_encode hc hw hl
    rw [henc]
    exact congrArg _ hdec
  | request =>
    cases i <;> simp only [Instr.inLayer, reduceCtorEq] at hl
    case termspecQuery x => exact decodePacket_termspecQuery x
    case keyPoll x => exact decodePacket_keyPoll x hc
    case displayWrite x => exact decodePacket_displayWrite x hc
    case interrupt x => exact decodePacket_interrupt x hc
    case drop p =>
      obtain ⟨⟨hlen, -⟩, hreq⟩ : (1 ≤ p.length ∧ p.length ≤ c.RX_CAP) ∧ isRequest c p = false := by
        simpa [Instr.wellFormed] using hw
      exact decodePacket_of_not_isRequest (List.ne_nil_of_length_pos hlen) hreq
    all_goals simp at hl
  | reply =>
    cases i <;> simp only [Instr.inLayer, reduceCtorEq] at hl
    case termspecReply x => exact decodeReply_termspecReply x
    case keysReply x => exact decodeReply_keysReply hc x
    case ackReply => exact decodeReply_ackReply hc
    all_goals simp at hl

/-- Settles O9: the byte of a well-formed row of the context selects it, and what is selected is such a row. -/
theorem armSelectionIgnoresTestOrder : Obligations.ArmSelectionIgnoresTestOrder := by
  intro c m len b i hc
  constructor
  · rintro rfl
    exact decodeSymbol_row c m len b
  · rintro ⟨hl, hw, henc⟩
    obtain ⟨b', henc', hdec⟩ := decodeSymbol_encode hc hw hl
    cases henc.symm.trans henc'
    exact hdec

/-- Settles O26, layer by layer. -/
theorem encodeOfDecode : Obligations.EncodeOfDecode := by
  intro c i l bytes hc h
  cases l with
  | symbol m len =>
    match bytes, h with
    | b :: bs, h =>
      cases h
      obtain ⟨hl, hw, henc⟩ := decodeSymbol_row c m len b
      refine ⟨hl, ?_, nofun, nofun⟩
      rintro _ _ ⟨⟩
      exact ⟨henc, hw⟩
  | request =>
    obtain ⟨hl, henc, hw⟩ := decodePacket_row h
    exact ⟨hl, nofun, fun _ => ⟨henc, hw⟩, nofun⟩
  | reply =>
    obtain ⟨hl, henc⟩ := decodeReply_row h
    exact ⟨hl, nofun, nofun, fun _ => henc⟩

/-- Settles O19: the header value determines both header bytes. -/
theorem headerValueSelectsTheRow : Obligations.HeaderValueSelectsTheRow := by
  intro c a b x hc
  exact ⟨header_toNat a b,
    decodePacket_iff_header rfl (decodePacket_termspecQuery x),
    decodePacket_iff_header rfl (decodePacket_keyPoll x hc),
    decodePacket_iff_header rfl (decodePacket_displayWrite x hc),
    decodePacket_iff_header rfl (decodePacket_interrupt x hc),
    decodePacket_eq_drop_iff hc⟩

end Sys2Proof
end

section
/-! SUPPORT. What a row does to the state, said once for each kind: the symbol rows (spec/40_framing_decoder.md R67 to
R77), and the packet rows, each a drop, the halt of INTERRUPT, or one `send` (spec/42_dispatcher.md R98 to R102). -/

namespace Sys2Proof.Machine

variable {i : Instr} {s t : State}

/-! ## The symbol rows but end of frame -/

/-- Everything a symbol row other than end of frame can do: move the decoder, raise the escape error, or `store`. -/
theorem exec_symbol_cases {m : RxState} {len : Nat} (hl : i.inLayer (.symbol m len) = true) (hi : i ≠ .endOfFrame) :
    ((i = .endEmptyFrame ∨ i = .esc ∨ i = .endResync ∨ ∃ b, i = .discarded b) ∧
      ∃ m', exec i s = .next (s.setRxState m') ∧ (m' = .discard → s.rxState = .discard)) ∨
    ((i = .endAfterEsc ∨ ∃ b, i = .badEscape b) ∧ ∃ m', exec i s = .next (abandonFrame .framingEsc m' s)) ∨
    ((i = .escEnd ∨ i = .escEsc ∨ ∃ b, i = .literal b) ∧ ∃ v, exec i s = .next (store v s)) := by
  cases i with
  | termspecQuery | keyPoll | displayWrite | interrupt | drop | termspecReply | keysReply | ackReply =>
    simp [Instr.inLayer] at hl
  | endOfFrame => exact absurd rfl hi
  | endEmptyFrame => exact .inl ⟨.inl rfl, s.rxState, rfl, id⟩
  | esc => exact .inl ⟨.inr (.inl rfl), .esc, rfl, nofun⟩
  | endResync => exact .inl ⟨.inr (.inr (.inl rfl)), .normal, rfl, nofun⟩
  | discarded b => exact .inl ⟨.inr (.inr (.inr ⟨b, rfl⟩)), s.rxState, rfl, id⟩
  | endAfterEsc => exact .inr (.inl ⟨.inl rfl, .normal, rfl⟩)
  | badEscape b => exact .inr (.inl ⟨.inr ⟨b, rfl⟩, .discard, rfl⟩)
  | escEnd => exact .inr (.inr ⟨.inl rfl, _, rfl⟩)
  | escEsc => exact .inr (.inr ⟨.inr (.inl rfl), _, rfl⟩)
  | literal b => exact .inr (.inr ⟨.inr (.inr ⟨b, rfl⟩), b, rfl⟩)

/-- What the symbol rows leave alone: all but the receive side, the two framing flags and the record of abnormal events
(spec/40_framing_decoder.md). -/
structure State.RxMoved (s t : State) : Prop where
  cfg : t.cfg = s.cfg
  kb : t.kb = s.kb
  run : t.run = s.run
  haltCause : t.haltCause = s.haltCause
  fKbOvf : t.fKbOvf = s.fKbOvf
  fDrop : t.fDrop = s.fDrop
  inputs : t.inputs = s.inputs
  txRoom : t.txRoom = s.txRoom
  txOut : t.txOut = s.txOut
  dispOut : t.dispOut = s.dispOut

/-- The same as one equation. -/
theorem State.RxMoved.eq (h : s.RxMoved t) :
    t = { s with
      rx := t.rx, rxState := t.rxState, fEscErr := t.fEscErr, fRxOvf := t.fRxOvf, trace := t.trace } := by
  obtain ⟨hcfg, hkb, hrun, hcause, hkbOvf, hdrop, hin, hroom, -, -⟩ := h
  simp only [← hcfg, ← hkb, ← hrun, ← hcause, ← hkbOvf, ← hdrop, ← hin, ← hroom]

theorem rxMoved_setRxState (m : RxState) (s : State) : s.RxMoved (s.setRxState m) := by constructor <;> rfl

theorem rxMoved_framingEsc (m : RxState) (s : State) : s.RxMoved (abandonFrame .framingEsc m s) := by
  constructor
  case txOut => exact abandonFrame_txOut _ m s
  case dispOut => exact abandonFrame_dispOut _ m s
  all_goals rfl

theorem rxMoved_store (v : Byte) (s : State) : s.RxMoved (store v s) := by
  by_cases h : s.rx.len < s.cfg.RX_CAP
  · rw [store_of_room h]
    constructor <;> rfl
  · rw [store_of_full (not_lt.mp h)]
    constructor
    case txOut => exact abandonFrame_txOut _ _ s
    case dispOut => exact abandonFrame_dispOut _ _ s
    all_goals rfl

/-- A symbol row other than end of frame answers a next state, in which only the receive side moved. -/
theorem exec_symbol_rxMoved {m : RxState} {len : Nat} (hl : i.inLayer (.symbol m len) = true) (hi : i ≠ .endOfFrame)
    (s : State) : ∃ t, exec i s = .next t ∧ s.RxMoved t := by
  rcases exec_symbol_cases (s := s) hl hi with ⟨-, m', hexec, -⟩ | ⟨-, m', hexec⟩ | ⟨-, v, hexec⟩
  · exact ⟨_, hexec, rxMoved_setRxState m' s⟩
  · exact ⟨_, hexec, rxMoved_framingEsc m' s⟩
  · exact ⟨_, hexec, rxMoved_store v s⟩

theorem rxMoved_of_exec_symbol {m : RxState} {len : Nat} (hl : i.inLayer (.symbol m len) = true) (hi : i ≠ .endOfFrame)
    (h : exec i s = .next t) : s.RxMoved t := by
  obtain ⟨u, hu, hmoved⟩ := exec_symbol_rxMoved hl hi s
  cases hu.symm.trans h
  exact hmoved

/-- Only the two escape errors write `f_esc_err`. -/
theorem exec_symbol_fEscErr {m : RxState} {len : Nat} (hl : i.inLayer (.symbol m len) = true) (hi : i ≠ .endOfFrame)
    (h : exec i s = .next t) (h1 : i ≠ .endAfterEsc) (h2 : ∀ b, i ≠ .badEscape b) : t.fEscErr = s.fEscErr := by
  rcases exec_symbol_cases (s := s) hl hi with ⟨-, m', hexec, -⟩ | ⟨hesc | ⟨b, hesc⟩, -⟩ | ⟨-, v, hexec⟩
  · cases hexec.symm.trans h
    rfl
  · exact absurd hesc h1
  · exact absurd hesc (h2 b)
  · cases hexec.symm.trans h
    rcases store_cases s v with ⟨-, hs⟩ | ⟨-, hs⟩ <;> rw [hs]

/-- What the cells read as after a `store`: with room only the cell at `rx_len` changed, else none has a value. -/
theorem store_reads (v : Byte) (s : State) :
    (s.rx.len < s.cfg.RX_CAP →
      (store v s).fRxOvf = s.fRxOvf ∧ ∀ a, a ≠ s.rx.len → (store v s).rx.read a = s.rx.read a) ∧
    (s.cfg.RX_CAP ≤ s.rx.len → ∀ a, (store v s).rx.read a = none) := by
  refine ⟨fun hroom => ?_, fun hfull a => ?_⟩
  · rw [store_of_room hroom]
    exact ⟨rfl, fun a ha => Buffer.push_read_other ha v⟩
  · rw [store_of_full hfull]
    exact Buffer.empty_read a

/-! ## The packet rows -/

/-- The bytes a packet row shows on the display before its reply (R100). -/
def shown : Instr → List Byte
  | .displayWrite payload => payload
  | _ => []

/-- The state once these bytes are on the display. -/
def displaying (bs : List Byte) (s : State) : State := { s with trace := s.trace ++ bs.map .disp }

@[simp] theorem displaying_nil (s : State) : displaying [] s = s := by simp [displaying]

theorem shown_of_ne_displayWrite (h : ∀ x, i ≠ .displayWrite x) : shown i = [] := by
  cases i with
  | displayWrite x => exact absurd rfl (h x)
  | _ => rfl

/-- The rows that answer with one `send` that no state change follows (R52, R98, R100). -/
def onlyReplies : Instr → Bool
  | .termspecQuery _ | .displayWrite _ | .termspecReply _ | .keysReply _ | .ackReply => true
  | _ => false

/-- Everything a packet row can leave: a drop raised, the halt of INTERRUPT, a poll answered and drained, another reply
sent whole, or a reply cut by the transport. -/
inductive PacketEffect (s : State) : Instr → State → Prop where
  | drop (p : Packet) : PacketEffect s (.drop p) (raise (.protocolDrop (dropReason p)) s)
  | interrupt (x : List Byte) : PacketEffect s (.interrupt x) (halt .interrupt s)
  | polled (x : List Byte) {keys : List Byte} (room : Option Nat) (hkeys : s.kb.bytes = some keys) :
    PacketEffect s (.keyPoll x) (sentReply (frame s.cfg (withHeader s.cfg.T_KEY_POLL keys)) room s).clearKb
  | replied {i : Instr} (hi : onlyReplies i = true) (sent : List Byte) (room : Option Nat) :
    PacketEffect s i (sentReply sent room (displaying (shown i) s))
  | cut {i : Instr} (hi : onlyReplies i = true ∨ ∃ x, i = .keyPoll x) (sent : List Byte) :
    PacketEffect s i (cutReply sent (displaying (shown i) s))

/-- One `send` goes out whole, or is cut. -/
theorem sendOrHalt_outcome (p : Packet) (onOk : State → State) (s : State) :
    (∃ room, sendOrHalt p onOk s = onOk (sentReply (frame s.cfg p) room s)) ∨
    ∃ sent, sendOrHalt p onOk s = cutReply sent s := by
  rcases s.room_or_cut (frame s.cfg p).length with ⟨k, hroom, hk⟩ | hroom
  · exact .inr ⟨_, sendOrHalt_of_cut onOk hroom hk⟩
  · exact .inl (sendOrHalt_of_room onOk hroom)

theorem packetEffect_of_send (hi : onlyReplies i = true) (p : Packet) (s : State) :
    PacketEffect s i (sendOrHalt p id (displaying (shown i) s)) := by
  rcases sendOrHalt_outcome p id (displaying (shown i) s) with ⟨room, hsend⟩ | ⟨sent, hsend⟩ <;> rw [hsend]
  · exact .replied hi _ room
  · exact .cut (.inl hi) sent

theorem packetEffect_of_poll {keys : List Byte} (hkeys : s.kb.bytes = some keys) (x : List Byte) :
    PacketEffect s (.keyPoll x) (sendOrHalt (withHeader s.cfg.T_KEY_POLL keys) State.clearKb s) := by
  rcases sendOrHalt_outcome (withHeader s.cfg.T_KEY_POLL keys) State.clearKb s with ⟨room, hsend⟩ | ⟨sent, hsend⟩ <;>
    rw [hsend]
  · exact .polled x room hkeys
  · simpa [shown] using PacketEffect.cut (s := s) (i := .keyPoll x) (.inr ⟨x, rfl⟩) sent

/-- The rows that only reply show their bytes, then `send`. -/
theorem exec_onlyReplies (hi : onlyReplies i = true) (s : State) :
    ∃ p, exec i s = .next (sendOrHalt p id (displaying (shown i) s)) := by
  cases i with
  | displayWrite x => exact ⟨_, exec_displayWrite x s⟩
  | termspecQuery | termspecReply | keysReply | ackReply =>
    simp only [shown, displaying_nil]
    exact ⟨_, rfl⟩
  | _ => cases hi

theorem packetEffect_of_onlyReplies (hi : onlyReplies i = true) (h : exec i s = .next t) : PacketEffect s i t := by
  obtain ⟨p, hexec⟩ := exec_onlyReplies hi s
  cases hexec.symm.trans h
  exact packetEffect_of_send hi p s

theorem exec_packet_effect (hl : i.inLayer .request = true ∨ i.inLayer .reply = true) (h : exec i s = .next t) :
    PacketEffect s i t := by
  cases i with
  | drop p =>
    cases h
    exact .drop p
  | interrupt x =>
    cases h
    exact .interrupt x
  | keyPoll x =>
    cases hkeys : s.kb.bytes with
    | none => simp [exec, execKeyPoll, kbKeys, hkeys] at h
    | some keys =>
      cases (exec_keyPoll hkeys x).symm.trans h
      exact packetEffect_of_poll hkeys x
  | termspecQuery | displayWrite | termspecReply | keysReply | ackReply =>
    exact packetEffect_of_onlyReplies rfl h
  | _ => simp [Instr.inLayer] at hl

/-- A request completes whenever the keys held can be read. -/
theorem exec_request_completes {keys : List Byte} (hkeys : s.kb.bytes = some keys) (hl : i.inLayer .request = true) :
    ∃ t, exec i s = .next t := by
  cases i with
  | keyPoll x => exact ⟨_, exec_keyPoll hkeys x⟩
  | termspecQuery | displayWrite | interrupt | drop => exact ⟨_, rfl⟩
  | _ => simp [Instr.inLayer] at hl

/-- What the packet rows leave alone: the receive side, the configuration, the schedule, and the flags but `f_drop`
(R103). -/
structure State.RxKept (s t : State) : Prop where
  cfg : t.cfg = s.cfg
  rx : t.rx = s.rx
  rxState : t.rxState = s.rxState
  inputs : t.inputs = s.inputs
  fEscErr : t.fEscErr = s.fEscErr
  fRxOvf : t.fRxOvf = s.fRxOvf
  fKbOvf : t.fKbOvf = s.fKbOvf

namespace PacketEffect

theorem rxKept (h : PacketEffect s i t) : s.RxKept t := by cases h <;> constructor <;> rfl

theorem fDrop (h : PacketEffect s i t) (hi : ∀ p, i ≠ .drop p) : t.fDrop = s.fDrop := by
  cases h with
  | drop p => exact absurd rfl (hi p)
  | interrupt | polled | replied | cut => rfl

/-- The FIFO is as it was, or it was drained by a poll that left `run` alone (R117). -/
theorem kb (h : PacketEffect s i t) :
    t.kb = s.kb ∨ ∃ x keys, i = .keyPoll x ∧ s.kb.bytes = some keys ∧ t.kb = Buffer.empty ∧ t.run = s.run ∧
      t.txOut = s.txOut ++ frame s.cfg (withHeader s.cfg.T_KEY_POLL keys) := by
  cases h with
  | drop | interrupt | replied | cut => exact .inl rfl
  | polled x room hkeys =>
    exact .inr ⟨x, _, rfl, hkeys, rfl, rfl, (State.views_of_tx (sentReply_trace _ room s)).1⟩

/-- The block runs on as before, or halts with a cause: INTERRUPT by that row only, else XPORT. -/
theorem run (h : PacketEffect s i t) :
    (t.run = s.run ∧ t.haltCause = s.haltCause) ∨ (t.run = .halted ∧ t.haltCause = .xport) ∨
    (∃ x, i = .interrupt x) ∧ t.run = .halted ∧ t.haltCause = .interrupt := by
  cases h with
  | drop | polled | replied => exact .inl ⟨rfl, rfl⟩
  | cut => exact .inr (.inl ⟨rfl, rfl⟩)
  | interrupt x => exact .inr (.inr ⟨⟨x, rfl⟩, rfl, rfl⟩)

theorem dispOut (h : PacketEffect s i t) (hi : ∀ x, i ≠ .displayWrite x) : t.dispOut = s.dispOut := by
  cases h with
  | drop | interrupt => exact raise_dispOut s _
  | polled x room => exact (State.views_of_tx (sentReply_trace _ room s)).2.1
  | replied _ sent room =>
    rw [shown_of_ne_displayWrite hi, displaying_nil]
    exact (State.views_of_tx (sentReply_trace _ room s)).2.1
  | cut _ sent =>
    rw [shown_of_ne_displayWrite hi, displaying_nil]
    exact (cutReply_streams sent s).2.1

end PacketEffect

/-! ## End of frame -/

/-- A delivered packet is the instruction it decodes to, a PKT_REQ row (R68, R95). -/
theorem deliver_eq_exec_request (s : State) {p : Packet} (hp : p ≠ []) :
    ∃ i, decodePacket s.cfg p = .ok i ∧ encode s.cfg i = p ∧ i.inLayer .request = true ∧ deliver p s = exec i s := by
  obtain ⟨i, hi⟩ := decodePacket_ne_nil s.cfg hp
  obtain ⟨hl, henc, -⟩ := decodePacket_row hi
  exact ⟨i, hi, henc, hl, deliver_eq_exec hi⟩

/-- End of frame completes where both buffers can be read, and the next packet starts from nothing held (R68). -/
theorem exec_endOfFrame_completes {p : Packet} {keys : List Byte} (hp : s.rx.bytes = some p)
    (hkeys : s.kb.bytes = some keys) :
    ∃ t, exec .endOfFrame s = .next t ∧ t.rx = Buffer.empty ∧ t.rxState = s.rxState ∧ t.cfg = s.cfg := by
  rw [exec_endOfFrame hp]
  by_cases hne : p = []
  · rw [hne]
    exact ⟨_, rfl, rfl, rfl, rfl⟩
  · obtain ⟨i, -, -, hl, hd⟩ := deliver_eq_exec_request s.clearRx hne
    obtain ⟨t, ht⟩ := exec_request_completes (s := s.clearRx) hkeys hl
    have hkept := (exec_packet_effect (.inl hl) ht).rxKept
    exact ⟨t, hd.trans ht, hkept.rx, hkept.rxState, hkept.cfg⟩

end Sys2Proof.Machine
end

section
/-! The statements on single rows, of spec/40_framing_decoder.md and spec/42_dispatcher.md. -/

namespace Sys2Proof

open Machine

/-- Settles O11: the packet held is empty, or is a request, which completes and writes no part of the receive side. -/
theorem endOfFrameCompletes : Obligations.EndOfFrameCompletes := by
  intro s p keys hp hkeys
  obtain ⟨t, ht, hrx, hm, hc⟩ := exec_endOfFrame_completes hp hkeys
  exact ⟨t, ht, hrx ▸ Buffer.empty_len, hm, hc⟩

/-- Settles O18: a reply row is the `send` of its own bytes, whole or cut. -/
theorem replyRowsTransmitTheirFrame : Obligations.ReplyRowsTransmitTheirFrame := by
  rintro i s f hi rfl
  have hexec : exec i s = .next (sendOrHalt (encode s.cfg i) id s) := by
    rcases hi with ⟨ident, rfl⟩ | ⟨keys, rfl⟩ | rfl <;> rfl
  rw [hexec]
  refine ⟨fun hroom => ?_, fun k hroom hk => ?_⟩
  · obtain ⟨room, hsend⟩ := sendOrHalt_of_room id hroom
    exact ⟨_, congrArg _ hsend, sentReply_frame _ room s, sentReply_trace _ room s⟩
  · exact ⟨_, congrArg _ (sendOrHalt_of_cut id hroom hk), cutReply_frame _ s, cutReply_streams _ s⟩

/-- Settles O23: only the receive side moves; what becomes of it is each group's own. -/
theorem symbolRowsFrame : Obligations.SymbolRowsFrame := by
  intro i s t m len hl hi h
  have hmoved := rxMoved_of_exec_symbol hl hi h
  refine ⟨hmoved.cfg, congrArg _ hmoved.kb, fun a => congrArg (Buffer.read a) hmoved.kb, hmoved.run, hmoved.haltCause,
    hmoved.fKbOvf, hmoved.fDrop, hmoved.inputs, hmoved.txRoom, hmoved.txOut, hmoved.dispOut,
    exec_symbol_fEscErr hl hi h, ?quiet, ?abandoned, ?stored⟩
  case quiet => rintro (rfl | rfl | rfl | ⟨b, rfl⟩) <;> cases h <;> exact ⟨rfl, rfl, fun _ => rfl⟩
  case abandoned => rintro (rfl | ⟨b, rfl⟩) <;> cases h <;> exact ⟨rfl, Buffer.empty_read⟩
  case stored => rintro (rfl | rfl | ⟨b, rfl⟩) <;> cases h <;> exact store_reads _ s

/-- Settles O24, by what a packet row can leave. -/
theorem packetRowsFrame : Obligations.PacketRowsFrame := by
  intro i s t hl h
  have heff := exec_packet_effect hl h
  have hkept := heff.rxKept
  refine ⟨hkept.cfg, congrArg _ hkept.rx, fun a => congrArg (Buffer.read a) hkept.rx, hkept.rxState, hkept.inputs,
    hkept.fEscErr, hkept.fRxOvf, hkept.fKbOvf, heff.fDrop, ?fifo, ?cutPoll, ?drop, ?run, heff.dispOut, ?silent⟩
  case fifo =>
    intro hi
    rcases heff.kb with hkb | ⟨x, -, hx, -⟩
    · exact ⟨congrArg Buffer.len hkb, fun a => congrArg (Buffer.read a) hkb⟩
    · exact absurd hx (hi x)
  case cutPoll =>
    intro x _ hrun
    rcases heff.kb with hkb | ⟨-, -, -, -, -, hr, -⟩
    · exact ⟨congrArg Buffer.len hkb, fun a => congrArg (Buffer.read a) hkb⟩
    · exact absurd hr hrun
  case drop =>
    rintro ⟨p, rfl⟩
    cases h
    exact ⟨rfl, rfl, rfl⟩
  case run =>
    intro hi
    rcases heff.run with hsame | hcut | ⟨⟨x, hx⟩, -⟩
    · exact .inl hsame
    · exact .inr hcut
    · exact absurd hx (hi x)
  case silent => rintro (⟨p, rfl⟩ | ⟨x, rfl⟩) <;> cases h <;> exact raise_txOut s _

end Sys2Proof
end

section
/-! SUPPORT. What one step can leave (spec/44_session_loop.md R125), and the invariant through it (spec/10_state.md R10,
R17 to R19). -/

namespace Sys2Proof.Machine

variable {i : Instr} {s t : State}

/-! ## Every step that answers a next state -/

/-- The state a received byte is decoded in: the event taken, the draw set (R126). -/
def receivingByte (draw : Option Nat) (rest : List Event) (s : State) : State := (s.setInputs rest).setTxRoom draw

theorem step_of_rxByte (hc : s.cfg.Ok) (hrun : s.run = .running) {b : Byte} {draw : Option Nat} {rest : List Event}
    (hin : s.inputs = .rxByte b draw :: rest) :
    step s = exec (decodeSymbol s.cfg s.rxState s.rx.len b) (receivingByte draw rest s) := by
  simp only [step_eq_takeEvent hc hin, takeEvent, rxByte, State.setInputs_run, hrun]
  rfl

theorem step_of_key_of_room (hc : s.cfg.Ok) (hrun : s.run = .running) {k : Byte} {rest : List Event}
    (hin : s.inputs = .key k :: rest) (hroom : s.kb.len < s.cfg.KB_CAP) :
    step s = .next ((s.setInputs rest).setKb (s.kb.push k)) :=
  (step_eq_takeEvent hc hin).trans (congrArg _ (key_of_room (s := s.setInputs rest) hrun hroom k))

theorem step_of_key_of_full (hc : s.cfg.Ok) (hrun : s.run = .running) {k : Byte} {rest : List Event}
    (hin : s.inputs = .key k :: rest) (hfull : s.cfg.KB_CAP ≤ s.kb.len) :
    step s = .next (raise (.kbOverflow k) (s.setInputs rest)) :=
  (step_eq_takeEvent hc hin).trans (congrArg _ (key_of_full (s := s.setInputs rest) hrun hfull k))

/-- Everything a step that answers a next state can have done. -/
inductive StepEffect (s : State) : State → Prop where
  | idle : StepEffect s s
  | reset {rest : List Event} (hin : s.inputs = .reset :: rest) : StepEffect s ((State.resetWith s.cfg).setInputs rest)
  | ignored (rest : List Event) : StepEffect s (s.setInputs rest)
  | key (rest : List Event) (k : Byte) (hroom : s.kb.len < s.cfg.KB_CAP) :
    StepEffect s ((s.setInputs rest).setKb (s.kb.push k))
  | keyLost (rest : List Event) (k : Byte) : StepEffect s (raise (.kbOverflow k) (s.setInputs rest))
  | xportFail (rest : List Event) : StepEffect s (halt .xport (s.setInputs rest))
  | symbol (draw : Option Nat) (rest : List Event) {i : Instr} {t : State}
    (hl : i.inLayer (.symbol s.rxState s.rx.len) = true) (hi : i ≠ .endOfFrame)
    (hexec : exec i (receivingByte draw rest s) = .next t) : StepEffect s t
  | packet {p : Packet} {draw : Option Nat} {rest : List Event} {i : Instr} {t : State}
    (hcloses : s.Closes p draw rest) (henc : encode s.cfg i = p) (hl : i.inLayer .request = true)
    (heff : PacketEffect (delivering draw rest s) i t) : StepEffect s t

/-- At a closing boundary the step runs the packet held, which is not empty. -/
theorem stepEffect_of_closes {p : Packet} {draw : Option Nat} {rest : List Event} (hc : s.cfg.Ok)
    (hcloses : s.Closes p draw rest) (h : step s = .next t) : StepEffect s t := by
  have ⟨_, _, hlen, hp, _⟩ := hcloses
  have hne : p ≠ [] := List.ne_nil_of_length_pos (Buffer.bytes_length hp ▸ hlen)
  obtain ⟨i, -, henc, hl, hd⟩ := deliver_eq_exec_request (delivering draw rest s) hne
  rw [step_of_closes hc hcloses, hd] at h
  exact .packet hcloses henc hl (exec_packet_effect (.inl hl) h)

/-- End of frame is the arm of one byte in one context. -/
theorem context_of_endOfFrame {c : Config} {m : RxState} {len : Nat} {b : Byte}
    (h : decodeSymbol c m len b = .endOfFrame) : m = .normal ∧ 0 < len ∧ b = c.END := by
  obtain ⟨hl, -, henc⟩ := decodeSymbol_row c m len b
  rw [h] at hl henc
  refine ⟨?_, ?_, (List.cons.inj henc).1.symm⟩
  · cases m <;> simp_all [Instr.inLayer]
  · cases m <;> simp_all [Instr.inLayer, Nat.pos_iff_ne_zero]

/-- A frame that was delivered could be read. -/
theorem rx_bytes_of_exec_endOfFrame (h : exec .endOfFrame s = .next t) : ∃ p, s.rx.bytes = some p := by
  cases hp : s.rx.bytes with
  | some p => exact ⟨p, rfl⟩
  | none => simp [exec, execEndOfFrame, rxPacket, hp] at h

theorem step_effect (h : step s = .next t) : StepEffect s t := by
  rcases step_cases s with ⟨-, hstep⟩ | ⟨-, -, hstep⟩ | ⟨rest, -, hin, hstep⟩ | ⟨e, rest, -, -, -, -, hstep⟩ |
    ⟨b, draw, rest, hc, hin, hrun, hstep⟩ | ⟨k, rest, -, -, -, hroom, hstep⟩ | ⟨k, rest, -, -, -, -, hstep⟩ |
    ⟨rest, -, -, -, hstep⟩
  · cases hstep.symm.trans h
  · cases hstep.symm.trans h
    exact .idle
  · cases hstep.symm.trans h
    exact .reset hin
  · cases hstep.symm.trans h
    exact .ignored rest
  · by_cases hi : decodeSymbol s.cfg s.rxState s.rx.len b = .endOfFrame
    · obtain ⟨hm, hlen, rfl⟩ := context_of_endOfFrame hi
      have hend : exec .endOfFrame (receivingByte draw rest s) = .next t := hi ▸ hstep.symm.trans h
      obtain ⟨p, hp⟩ := rx_bytes_of_exec_endOfFrame hend
      exact stepEffect_of_closes hc ⟨hrun, hm, hlen, hp, hin⟩ h
    · exact .symbol draw rest (decodeSymbol_row s.cfg s.rxState s.rx.len b).1 hi (hstep.symm.trans h)
  · cases hstep.symm.trans h
    exact .key rest k hroom
  · cases hstep.symm.trans h
    exact .keyLost rest k
  · cases hstep.symm.trans h
    exact .xportFail rest

/-! ## The invariant -/

namespace State.Inv

theorem setRxState (h : s.Inv) {m : RxState} (hm : m = .discard → s.rxState = .discard) : (s.setRxState m).Inv := by
  obtain ⟨hc, hrx, hlen, hkb, hkeys, hdiscard, hrun⟩ := h
  exact ⟨hc, hrx, hlen, hkb, hkeys, fun hm' => hdiscard (hm hm'), hrun⟩

theorem emptyRx (h : s.Inv) (m : RxState) : ({ s with rx := Buffer.empty, rxState := m } : State).Inv := by
  obtain ⟨hc, -, -, hkb, hkeys, -, hrun⟩ := h
  exact ⟨hc, rfl, Nat.zero_le _, hkb, hkeys, fun _ => rfl, hrun⟩

theorem store (h : s.Inv) (v : Byte) : (store v s).Inv := by
  rcases store_cases s v with ⟨hroom, hs⟩ | ⟨-, hs⟩ <;> rw [hs]
  · obtain ⟨hc, hrx, -, hkb, hkeys, -, hrun⟩ := h
    exact ⟨hc, hrx.push v, hroom, hkb, hkeys, nofun, hrun⟩
  · exact h.emptyRx .discard

theorem setKb (h : s.Inv) {b : Buffer} (hb : b.Filled) (hlen : b.len ≤ s.cfg.KB_CAP) : (s.setKb b).Inv := by
  obtain ⟨hc, hrx, hlen', -, -, hdiscard, hrun⟩ := h
  exact ⟨hc, hrx, hlen', hb, hlen, hdiscard, hrun⟩

theorem halted (h : s.Inv) {c : HaltCause} (hc : c ≠ .none) : (s.setHalted c).Inv := by
  obtain ⟨hcfg, hrx, hlen, hkb, hkeys, hdiscard, -⟩ := h
  exact ⟨hcfg, hrx, hlen, hkb, hkeys, hdiscard, by simp [hc]⟩

theorem symbol (h : s.Inv) {m : RxState} {len : Nat} (hl : i.inLayer (.symbol m len) = true) (hi : i ≠ .endOfFrame)
    (hexec : exec i s = .next t) : t.Inv := by
  rcases exec_symbol_cases (s := s) hl hi with ⟨-, m', he, hm⟩ | ⟨-, m', he⟩ | ⟨-, v, he⟩ <;> cases he.symm.trans hexec
  · exact h.setRxState hm
  · exact h.emptyRx m'
  · exact h.store v

theorem packet (h : s.Inv) (heff : PacketEffect s i t) : t.Inv := by
  cases heff with
  | drop | replied => exact h
  | interrupt => exact h.halted nofun
  | cut => exact h.halted nofun
  | polled => exact h.setKb rfl (Nat.zero_le _)

theorem resetWith {c : Config} (hc : c.Ok) : (State.resetWith c).Inv :=
  ⟨hc, rfl, Nat.zero_le _, rfl, Nat.zero_le _, nofun, by simp [State.resetWith]⟩

theorem step (h : s.Inv) (hstep : Machine.step s = .next t) : t.Inv := by
  have ⟨hc, _, _, hkb, _⟩ := h
  cases step_effect hstep with
  | idle | ignored | keyLost => exact h
  | reset => exact resetWith hc
  | key rest k hroom => exact h.setKb (hkb.push k) hroom
  | xportFail => exact h.halted nofun
  | symbol draw rest hl hi hexec => exact symbol (s := receivingByte draw rest s) h hl hi hexec
  | packet hcloses henc hl heff =>
    refine packet ?_ heff
    exact h.emptyRx s.rxState

/-- Progress: the configuration is accepted, and both buffers can be read. -/
theorem step_completes (h : s.Inv) : ∃ t, Machine.step s = .next t := by
  obtain ⟨hc, hrx, -, hkb, -⟩ := h
  rcases step_cases s with ⟨hbad, -⟩ | ⟨-, -, hs⟩ | ⟨_, -, -, hs⟩ | ⟨_, _, -, -, -, -, hs⟩ |
    ⟨b, draw, rest, -, -, -, hs⟩ | ⟨_, _, -, -, -, -, hs⟩ | ⟨_, _, -, -, -, -, hs⟩ | ⟨_, -, -, -, hs⟩
  · exact absurd hc hbad
  · exact ⟨_, hs⟩
  · exact ⟨_, hs⟩
  · exact ⟨_, hs⟩
  · rw [hs]
    by_cases hi : decodeSymbol s.cfg s.rxState s.rx.len b = .endOfFrame
    · obtain ⟨p, hp⟩ := hrx.bytes
      obtain ⟨keys, hkeys⟩ := hkb.bytes
      obtain ⟨t, ht, -⟩ := exec_endOfFrame_completes (s := receivingByte draw rest s) hp hkeys
      exact ⟨t, hi ▸ ht⟩
    · obtain ⟨t, ht, -⟩ := exec_symbol_rxMoved (decodeSymbol_row s.cfg s.rxState s.rx.len b).1 hi
        (receivingByte draw rest s)
      exact ⟨t, ht⟩
  · exact ⟨_, hs⟩
  · exact ⟨_, hs⟩
  · exact ⟨_, hs⟩

end State.Inv

/-! ## The record of abnormal events and the flags -/

/-- What the flags' rule speaks of: the four flags and the abnormal events raised (R21, R140). -/
def State.alarms (s : State) : (Bool × Bool × Bool × Bool) × List Abnormal :=
  ((s.fEscErr, s.fRxOvf, s.fKbOvf, s.fDrop), s.raisedOut)

/-- Either nothing was raised and no flag written, or one abnormal event was, with the flag it records. -/
def State.RaisedAtMostOne (s t : State) : Prop := t.alarms = s.alarms ∨ ∃ e, t.alarms = (raise e s).alarms

/-- The fields outside the rule play no part. -/
theorem State.RaisedAtMostOne.of_alarms_eq {u : State} (h : u.RaisedAtMostOne t) (hu : u.alarms = s.alarms) :
    s.RaisedAtMostOne t := by
  have hraise : ∀ e, (raise e u).alarms = (raise e s).alarms := by
    intro e
    simp only [State.alarms, Prod.mk.injEq] at hu
    obtain ⟨⟨hesc, hrx, hkb, hdrop⟩, hraised⟩ := hu
    simp only [State.alarms, raise_raisedOut, hraised]
    cases e <;> simp [raise, record, *]
  rw [State.RaisedAtMostOne, ← hu]
  exact h.imp_right fun ⟨e, he⟩ => ⟨e, he.trans (hraise e)⟩

theorem raisedAtMostOne_symbol {m : RxState} {len : Nat} (hl : i.inLayer (.symbol m len) = true) (hi : i ≠ .endOfFrame)
    (hexec : exec i s = .next t) : s.RaisedAtMostOne t := by
  rcases exec_symbol_cases (s := s) hl hi with ⟨-, m', he, hm⟩ | ⟨-, m', he⟩ | ⟨-, v, he⟩ <;> cases he.symm.trans hexec
  · exact .inl rfl
  · exact .inr ⟨.framingEsc, rfl⟩
  · rcases store_cases s v with ⟨-, hs⟩ | ⟨-, hs⟩ <;> rw [hs]
    · exact .inl rfl
    · exact .inr ⟨.framingOvf, rfl⟩

theorem displaying_raisedOut (bs : List Byte) (s : State) : (displaying bs s).raisedOut = s.raisedOut :=
  (State.views_of_disp (s := s) (bs := bs) rfl).2.2

theorem raisedAtMostOne_packet (heff : PacketEffect s i t) : s.RaisedAtMostOne t := by
  cases heff with
  | drop p => exact .inr ⟨.protocolDrop _, rfl⟩
  | interrupt => exact .inr ⟨.halt .interrupt, rfl⟩
  | polled x room =>
    exact .inl (congrArg (Prod.mk _) (State.views_of_tx (sentReply_trace _ room s)).2.2)
  | replied hi sent room =>
    refine .inl (congrArg (Prod.mk _) ?_)
    rw [(State.views_of_tx (sentReply_trace sent room _)).2.2, displaying_raisedOut]
  | cut hi sent =>
    refine .inr ⟨.halt .xport, congrArg (Prod.mk _) ?_⟩
    rw [(cutReply_streams sent _).2.2, displaying_raisedOut, raise_raisedOut]

theorem raisedAtMostOne_step (h : step s = .next t) (hreset : ∀ rest, s.inputs ≠ .reset :: rest) :
    s.RaisedAtMostOne t := by
  cases step_effect h with
  | reset hin => exact absurd hin (hreset _)
  | idle | ignored | key => exact .inl rfl
  | keyLost rest k => exact .inr ⟨.kbOverflow k, rfl⟩
  | xportFail => exact .inr ⟨.halt .xport, rfl⟩
  | symbol draw rest hl hi hexec => exact (raisedAtMostOne_symbol hl hi hexec).of_alarms_eq rfl
  | packet hcloses henc hl heff => exact (raisedAtMostOne_packet heff).of_alarms_eq rfl

/-- The reply to a request is one of the three (R52). -/
theorem State.ReplyTo.replyFrame {p : Packet} {f : List Byte} (h : s.ReplyTo p f) : s.ReplyFrame f := by
  rcases h with ⟨-, -, hf⟩ | ⟨-, keys, -, hkeys, hf⟩ | ⟨-, -, hf⟩
  · exact .inl hf
  · exact .inr (.inl ⟨keys, hkeys, hf⟩)
  · exact .inr (.inr hf)

/-! ## The configuration and the FIFO -/

theorem step_cfg (h : step s = .next t) : t.cfg = s.cfg := by
  cases step_effect h with
  | idle | reset | ignored | key | keyLost | xportFail => rfl
  | symbol draw rest hl hi hexec => exact (rxMoved_of_exec_symbol hl hi hexec).cfg
  | packet hcloses henc hl heff => exact heff.rxKept.cfg

/-- Everything a step can do to the FIFO: `Reset`, one key pushed, a poll answered whole, or nothing (R116, R117). -/
theorem step_kb (h : step s = .next t) :
    (∃ rest, s.inputs = .reset :: rest) ∨ (∃ k, t.kb = s.kb.push k) ∨
    (∃ x keys draw rest, s.Closes (withHeader s.cfg.T_KEY_POLL x) draw rest ∧ s.kb.bytes = some keys ∧
      t.kb = Buffer.empty ∧ t.txOut = s.txOut ++ frame s.cfg (withHeader s.cfg.T_KEY_POLL keys)) ∨
    t.kb = s.kb := by
  cases step_effect h with
  | idle | ignored | keyLost | xportFail => exact .inr (.inr (.inr rfl))
  | reset hin => exact .inl ⟨_, hin⟩
  | key rest k => exact .inr (.inl ⟨k, rfl⟩)
  | symbol draw rest hl hi hexec => exact .inr (.inr (.inr (rxMoved_of_exec_symbol hl hi hexec).kb))
  | packet hcloses henc hl heff =>
    rcases heff.kb with hkb | ⟨x, keys, rfl, hkeys, hkb, -, htx⟩
    · exact .inr (.inr (.inr hkb))
    · cases henc
      exact .inr (.inr (.inl ⟨x, keys, _, _, hcloses, hkeys, hkb, htx⟩))

end Sys2Proof.Machine
end

section
/-! The statements on every step, of spec/10_state.md, spec/43_keystroke_fifo.md and spec/60_exceptions.md. -/

namespace Sys2Proof

open Machine

/-- Settles O37, by what a step can leave. -/
theorem stepKeepsInvariant : Obligations.StepKeepsInvariant := fun _ _ h hstep => h.step hstep

/-- Settles O38, by induction over the steps: each completes, and keeps the invariant. -/
theorem invariantStatesNeverStop : Obligations.InvariantStatesNeverStop := by
  intro s n h
  induction n generalizing s with
  | zero => exact ⟨s, rfl⟩
  | succ n ih =>
    obtain ⟨t, hstep⟩ := h.step_completes
    obtain ⟨u, hrun⟩ := ih t (h.step hstep)
    exact ⟨u, (run_succ_of_step hstep n).trans hrun⟩

/-- Settles O43. -/
theorem configurationNeverChanges : Obligations.ConfigurationNeverChanges := fun _ _ h => step_cfg h

/-- Settles O44: a step raises nothing, or one event with its flag. -/
theorem flagsAreStickyAndExact : Obligations.FlagsAreStickyAndExact := by
  intro s t h hreset
  rcases raisedAtMostOne_step h hreset with hsame | ⟨e, hone⟩
  · simp only [State.alarms, Prod.mk.injEq] at hsame
    obtain ⟨⟨hesc, hrx, hkb, hdrop⟩, hraised⟩ := hsame
    exact ⟨[], by simp [*]⟩
  · simp only [State.alarms, Prod.mk.injEq, raise_raisedOut] at hone
    obtain ⟨⟨hesc, hrx, hkb, hdrop⟩, hraised⟩ := hone
    refine ⟨[e], hraised, le_rfl, ?_⟩
    rw [hesc, hrx, hkb, hdrop]
    cases e <;> simp [raise, record]

/-- Settles O36: the poll answered whole is the one step besides `Reset` that does not keep the keys held. -/
theorem onlyPollOrResetShortensFifo : Obligations.OnlyPollOrResetShortensFifo := by
  intro s t held _ hheld hstep
  rcases step_kb hstep with hreset | ⟨k, hkb⟩ | ⟨x, keys, draw, rest, hcloses, hkeys, hkb, htx⟩ | hkb
  · exact .inr (.inl hreset)
  · exact .inl ⟨[k], hkb ▸ Buffer.push_bytes hheld k, le_rfl⟩
  · cases hheld.symm.trans hkeys
    exact .inr (.inr ⟨x, draw, rest, hcloses, hkb ▸ rfl, htx⟩)
  · exact .inl ⟨[], by rw [hkb, List.append_nil, hheld], Nat.zero_le _⟩

/-- Settles O40: what is sent is the reply of a delivered request, whole, or cut where the block halts. -/
theorem repliesAreOneOfThree : Obligations.RepliesAreOneOfThree := by
  intro s t hinv hstep hreset
  have ⟨hc, _, _, hkb, _⟩ := hinv
  rcases step_effects hinv hstep with ⟨rest, hin, -⟩ | ⟨htx, -⟩ | ⟨rest, -, rfl⟩ | ⟨p, draw, rest, hcloses, hd⟩
  · exact absurd hin (hreset rest)
  · exact .inl htx
  · exact .inl (raise_txOut _ _)
  · rcases deliver_effects (s := delivering draw rest s) hc hkb hd with
      ⟨htx, -⟩ | ⟨x, -, rfl⟩ | ⟨f, hreply, hwhole, hcut⟩
    · exact .inl htx
    · exact .inl (raise_txOut _ _)
    · rcases (delivering draw rest s).room_or_cut f.length with ⟨k, hroom, hk⟩ | hroom
      · obtain ⟨hrun, hcause, htx⟩ := hcut k hroom hk
        exact .inr ⟨f, k, hreply.replyFrame, htx, fun _ => ⟨hrun, hcause⟩⟩
      · refine .inr ⟨f, f.length, hreply.replyFrame, ?_, fun hk => absurd hk (lt_irrefl _)⟩
        rw [List.take_length]
        exact (hwhole hroom).1

/-- Settles O42: in each decoder state, by the arm of the boundary byte there. -/
theorem everyBoundaryEndsTheFrame : Obligations.EveryBoundaryEndsTheFrame := by
  intro s draw rest hinv hrun hin
  obtain ⟨hc, hrx, -, hkb, -, hdiscard, -⟩ := hinv
  rw [step_of_rxByte hc hrun hin]
  cases hm : s.rxState with
  | normal =>
    by_cases hlen : s.rx.len = 0
    · rw [hlen, decodeSymbol_normal_end_empty]
      exact ⟨_, rfl, hm, hlen⟩
    · rw [decodeSymbol_normal_end (Nat.pos_of_ne_zero hlen)]
      obtain ⟨p, hp⟩ := hrx.bytes
      obtain ⟨keys, hkeys⟩ := hkb.bytes
      obtain ⟨t, ht, hempty, hstate, -⟩ := exec_endOfFrame_completes (s := receivingByte draw rest s) hp hkeys
      exact ⟨t, ht, hstate.trans hm, hempty ▸ rfl⟩
  | esc =>
    rw [decodeSymbol_esc_end hc]
    exact ⟨_, rfl, rfl, rfl⟩
  | discard =>
    rw [decodeSymbol_discard_end]
    exact ⟨_, rfl, rfl, hdiscard hm⟩

/-- Settles O35, by induction over the keys: with room the key is appended to those held, without it only the flag is
written, and no later key is kept either. -/
theorem fifoKeepsFirstKeys : Obligations.FifoKeepsFirstKeys := by
  intro s held ks rest hinv hrun hheld hin
  induction ks generalizing s held with
  | nil =>
    obtain ⟨-, -, -, -, hle, -⟩ := hinv
    rw [← Buffer.bytes_length hheld] at hle
    exact ⟨s, rfl, by simpa [List.take_of_length_le hle] using hheld, by simp [hle], rfl, rfl, hrun, rfl, rfl, hin⟩
  | cons k ks ih =>
    have ⟨hc, _, _, _, hle, _⟩ := hinv
    have hlen := Buffer.bytes_length hheld
    by_cases hroom : s.kb.len < s.cfg.KB_CAP
    · have hstep := step_of_key_of_room hc hrun hin hroom
      obtain ⟨t, ht, hkb, hovf, hframe⟩ := ih _ _ (hinv.step hstep) hrun (Buffer.push_bytes hheld k) rfl
      exact ⟨t, (run_succ_of_step hstep _).trans ht, by simpa using hkb, by simpa using hovf, hframe⟩
    · have hfull : held.length = s.cfg.KB_CAP := hlen.trans (hle.antisymm (not_lt.mp hroom))
      have hstep := step_of_key_of_full hc hrun hin (not_lt.mp hroom)
      obtain ⟨t, ht, hkb, hovf, hrx, hm, hr, htx, hdisp, hin'⟩ := ih _ _ (hinv.step hstep) hrun hheld rfl
      refine ⟨t, (run_succ_of_step hstep _).trans ht, hkb.trans ?_, hovf.trans ?_, hrx, hm, hr,
        htx.trans (raise_txOut _ _), hdisp.trans (raise_dispOut _ _), hin'⟩
      · exact congrArg some ((List.take_left' hfull).trans (List.take_left' hfull).symm)
      · simp [raise, record, hfull]

end Sys2Proof
end

section
/-! SUPPORT. The machine against the decoder alone (spec/40_framing_decoder.md R65), and the bytes of a frame run one by
one (spec/41_framing_encoder.md R87). -/

namespace Sys2Proof.Machine

variable {s t : State}

/-! ## One byte -/

/-- The receive side of the block is this state of the decoder alone. -/
def State.Shows (s : State) (d : RxDecoder) : Prop := s.rxState = d.mode ∧ s.rx.bytes = some d.held

/-- `store` on the machine is `store` on the decoder (R70). -/
theorem store_shows {d : RxDecoder} (h : s.Shows d) (v : Byte) : (store v s).Shows (d.store s.cfg v) := by
  obtain ⟨-, hheld⟩ := h
  have hlen : d.held.length = s.rx.len := Buffer.bytes_length hheld
  by_cases hroom : s.rx.len < s.cfg.RX_CAP
  · rw [store_of_room hroom, RxDecoder.store, if_pos (hlen ▸ hroom)]
    exact ⟨rfl, Buffer.push_bytes hheld v⟩
  · rw [store_of_full (not_lt.mp hroom), RxDecoder.store, if_neg (hlen ▸ hroom)]
    exact ⟨rfl, rfl⟩

/-- The simulation (R65): a byte that closes no frame moves the receive side as it moves the decoder alone. -/
theorem exec_shows_feed {d : RxDecoder} (h : s.Shows d) {b : Byte}
    (hi : decodeSymbol s.cfg d.mode d.held.length b ≠ .endOfFrame)
    (hexec : exec (decodeSymbol s.cfg d.mode d.held.length b) s = .next t) : t.Shows (d.feed s.cfg b).1 := by
  have hl := (decodeSymbol_row s.cfg d.mode d.held.length b).1
  have hheld := h.2
  unfold RxDecoder.feed
  generalize decodeSymbol s.cfg d.mode d.held.length b = i at hi hexec hl
  cases i with
  | termspecQuery | keyPoll | displayWrite | interrupt | drop | termspecReply | keysReply | ackReply =>
    simp [Instr.inLayer] at hl
  | endOfFrame => exact absurd rfl hi
  | endEmptyFrame | discarded =>
    cases hexec
    exact h
  | esc | endResync =>
    cases hexec
    exact ⟨rfl, hheld⟩
  | endAfterEsc | badEscape =>
    cases hexec
    exact ⟨rfl, rfl⟩
  | literal | escEnd | escEsc =>
    cases hexec
    exact store_shows h _

/-! ## The bytes of a frame -/

theorem run_one (s : State) : Host.Core.run core 1 s = step s := by
  have h : core.step s = step s := rfl
  simp only [Host.Core.run, h]
  cases step s <;> rfl

section Body

variable (hc : s.cfg.Ok) (hrun : s.run = .running) {es : List Event}
include hc hrun

/-- `ESC` only moves the decoder (R69). -/
theorem step_of_esc (hm : s.rxState = .normal) (hin : s.inputs = .rxByte s.cfg.ESC none :: es) :
    step s = .next { s with rxState := .esc, txRoom := none, inputs := es } := by
  rw [step_of_rxByte hc hrun hin, hm, decodeSymbol_normal_esc hc]
  rfl

/-- A byte read by a storing arm stores its value where there is room (R70). -/
theorem step_of_storing (hroom : s.rx.len < s.cfg.RX_CAP) {b v : Byte} {i : Instr}
    (hin : s.inputs = .rxByte b none :: es) (hi : decodeSymbol s.cfg s.rxState s.rx.len b = i)
    (hexec : exec i (receivingByte none es s) = .next (store v (receivingByte none es s))) :
    step s = .next { s with rx := s.rx.push v, rxState := .normal, txRoom := none, inputs := es } := by
  rw [step_of_rxByte hc hrun hin, hi, hexec, store_of_room (s := receivingByte none es s) hroom]
  rfl

/-- The wire bytes of one decoded byte store that byte (R71 to R73). -/
theorem run_readAs (hm : s.rxState = .normal) (hroom : s.rx.len < s.cfg.RX_CAP) {w : List Byte} {v : Byte}
    (h : ReadAs s.cfg w v) (hend : s.cfg.END ∉ w) (hin : s.inputs = rxEvents w ++ es) (n : Nat) :
    Host.Core.run core (n + w.length) s =
      Host.Core.run core n { s with rx := s.rx.push v, rxState := .normal, txRoom := none, inputs := es } := by
  cases h with
  | literal hesc =>
    have hne : v ≠ s.cfg.END := fun e => hend (by simp [e])
    have hi : decodeSymbol s.cfg s.rxState s.rx.len v = .literal v := hm ▸ decodeSymbol_normal_literal hne hesc
    exact run_succ_of_step (step_of_storing hc hrun hroom hin hi rfl) n
  | escEnd =>
    have hesc := step_of_esc hc hrun (es := .rxByte s.cfg.ESC_END none :: es) hm hin
    refine (run_succ_of_step hesc (n + 1)).trans (run_succ_of_step ?_ n)
    exact step_of_storing (s := { s with rxState := .esc, txRoom := none, inputs := .rxByte s.cfg.ESC_END none :: es })
      (v := s.cfg.END) hc hrun hroom rfl decodeSymbol_esc_escEnd rfl
  | escEsc =>
    have hesc := step_of_esc hc hrun (es := .rxByte s.cfg.ESC_ESC none :: es) hm hin
    refine (run_succ_of_step hesc (n + 1)).trans (run_succ_of_step ?_ n)
    exact step_of_storing (s := { s with rxState := .esc, txRoom := none, inputs := .rxByte s.cfg.ESC_ESC none :: es })
      (v := s.cfg.ESC) hc hrun hroom rfl (decodeSymbol_esc_escEsc hc) rfl

/-- The body of a frame fills the buffer with its packet, and leaves the rest of the block but the draw alone. -/
theorem run_frame_body {p : Packet} {held : List Byte} (hm : s.rxState = .normal) (hheld : s.rx.bytes = some held)
    (hfits : held.length + p.length ≤ s.cfg.RX_CAP) (hin : s.inputs = rxEvents (p.flatMap (escByte s.cfg)) ++ es) :
    ∃ buf room, buf.bytes = some (held ++ p) ∧ ∀ n,
      Host.Core.run core (n + (p.flatMap (escByte s.cfg)).length) s =
        Host.Core.run core n { s with rx := buf, txRoom := room, inputs := es } := by
  induction p generalizing s held with
  | nil =>
    have hin' : s.inputs = es := hin
    exact ⟨s.rx, s.txRoom, by simpa using hheld, fun n => by rw [← hin']; rfl⟩
  | cons b p ih =>
    have hlen := Buffer.bytes_length hheld
    rw [List.length_cons] at hfits
    have hin' : s.inputs = rxEvents (escByte s.cfg b) ++ (rxEvents (p.flatMap (escByte s.cfg)) ++ es) := by
      simpa [rxEvents] using hin
    obtain ⟨buf, room, hbuf, hrest⟩ := ih (s := { s with
        rx := s.rx.push b, rxState := .normal, txRoom := none, inputs := rxEvents (p.flatMap (escByte s.cfg)) ++ es })
      hc hrun rfl (Buffer.push_bytes hheld b) (by simp; omega) rfl
    refine ⟨buf, room, by simpa using hbuf, fun n => ?_⟩
    rw [List.flatMap_cons, List.length_append, Nat.add_comm (escByte s.cfg b).length, ← Nat.add_assoc,
      run_readAs hc hrun hm (by omega) (readAs_escByte s.cfg b) (end_notMem_escByte hc b) hin']
    rw [← hm] at hrest
    rw [← hm]
    exact hrest n

/-- The boundary byte after the body delivers the packet to the block as it was before the frame, but for the schedule
and the draw (R68). -/
theorem step_of_frame_held (hm : s.rxState = .normal) (hrx : s.rx = Buffer.empty) {p : Packet} {buf : Buffer}
    {draw room : Option Nat} (hbuf : buf.bytes = some p) (hpos : 1 ≤ p.length) :
    step { s with rx := buf, txRoom := room, inputs := .rxByte s.cfg.END draw :: es } =
      deliver p { s with inputs := es, txRoom := draw } := by
  have hcloses : State.Closes { s with rx := buf, txRoom := room, inputs := .rxByte s.cfg.END draw :: es } p draw es :=
    ⟨hrun, hm, Buffer.bytes_length hbuf ▸ hpos, hbuf, rfl⟩
  rw [step_of_closes (by exact hc) hcloses]
  simp only [delivering, State.clearRx, State.setRx, State.setTxRoom, State.setInputs, hrx]

end Body

end Sys2Proof.Machine
end

section
/-! The statements that tie the machine to its decoder and to the frames it reads. -/

namespace Sys2Proof

open Machine

/-- Settles O33: a byte that closes no frame by the simulation, the closing boundary by the packet's delivery. -/
theorem machineRefinesDecoder : Obligations.MachineRefinesDecoder := by
  intro s held b draw rest d op hinv hrun hin hheld hfeed
  obtain ⟨hc, -, -, hkb, -⟩ := hinv
  have hlen : held.length = s.rx.len := Buffer.bytes_length hheld
  have hstep := step_of_rxByte hc hrun hin
  rw [← hlen] at hstep
  by_cases hi : decodeSymbol s.cfg s.rxState held.length b = .endOfFrame
  · obtain ⟨hm, hpos, rfl⟩ := context_of_endOfFrame hi
    obtain ⟨rfl, rfl⟩ : ⟨s.rxState, []⟩ = d ∧ some held = op := by simpa [RxDecoder.feed, hi] using hfeed
    obtain ⟨i, hdec, -, hl, hd⟩ :=
      deliver_eq_exec_request (delivering draw rest s) (List.ne_nil_of_length_pos hpos)
    obtain ⟨keys, hkeys⟩ := hkb.bytes
    obtain ⟨t, ht⟩ := exec_request_completes (s := delivering draw rest s) hkeys hl
    have hkept := (exec_packet_effect (.inl hl) ht).rxKept
    have hcloses : s.Closes held draw rest := ⟨hrun, hm, hlen ▸ hpos, hheld, hin⟩
    refine ⟨t, (step_of_closes hc hcloses).trans (hd.trans ht), hkept.rxState, hkept.rx ▸ rfl, nofun, ?_⟩
    rintro _ ⟨⟩
    exact ⟨i, delivering draw rest s, hdec, rfl, rfl, ht⟩
  · have hop : none = op := by simpa [RxDecoder.feed_packet, hi] using congrArg Prod.snd hfeed
    have hd : (RxDecoder.feed s.cfg ⟨s.rxState, held⟩ b).1 = d := congrArg Prod.fst hfeed
    obtain ⟨t, ht, hmoved⟩ :=
      exec_symbol_rxMoved (decodeSymbol_row s.cfg s.rxState held.length b).1 hi (receivingByte draw rest s)
    obtain ⟨hm, hbytes⟩ := exec_shows_feed (s := receivingByte draw rest s) (d := ⟨s.rxState, held⟩) ⟨rfl, hheld⟩ hi ht
    refine ⟨t, hstep.trans ht, hd ▸ hm, hd ▸ hbytes, fun _ => ⟨hmoved.eq, hmoved.txOut, hmoved.dispOut⟩, ?_⟩
    rintro p rfl
    cases hop

/-- Settles O34: the body fills the buffer with the packet, and the closing boundary runs it. -/
theorem frameRunsItsPacket : Obligations.FrameRunsItsPacket := by
  intro s p draw rest hinv hrun hm hempty hpos hfits hin
  obtain ⟨hc, hrx, -⟩ := hinv
  have hrx := hrx.eq_empty hempty
  obtain ⟨buf, room, hbuf, hbody⟩ := run_frame_body (es := .rxByte s.cfg.END draw :: rest) hc hrun hm
    (hrx ▸ Buffer.empty_bytes) (by simpa using hfits) (by simpa [frameEvents] using hin)
  rw [List.nil_append] at hbuf
  obtain ⟨i, hdec, -, -, hd⟩ :=
    deliver_eq_exec_request { s with inputs := rest, txRoom := draw } (List.ne_nil_of_length_pos hpos)
  refine ⟨i, hdec, ?_⟩
  rw [frame_length, Nat.add_comm, hbody 1, run_one, step_of_frame_held hc hrun hm hrx hbuf hpos, hd]

end Sys2Proof
end

section
/-! SUPPORT. What no rule reads (spec/10_state.md R20, R21): a relation between states that every read respects and
every write keeps is kept by a step. -/

namespace Sys2Proof.Machine

/-- `R` relates states that differ at most in what no rule reads: related states agree on what the rules read, and stay
related under every write. -/
structure Unread (R : State → State → Prop) : Prop where
  cfg {s u : State} : R s u → s.cfg = u.cfg
  rx {s u : State} : R s u → s.rx = u.rx
  rxState {s u : State} : R s u → s.rxState = u.rxState
  kb {s u : State} : R s u → s.kb = u.kb
  run {s u : State} : R s u → s.run = u.run
  txRoom {s u : State} : R s u → s.txRoom = u.txRoom
  inputs {s u : State} : R s u → s.inputs = u.inputs
  setRx {s u : State} (b : Buffer) : R s u → R (s.setRx b) (u.setRx b)
  setRxState {s u : State} (m : RxState) : R s u → R (s.setRxState m) (u.setRxState m)
  setKb {s u : State} (b : Buffer) : R s u → R (s.setKb b) (u.setKb b)
  setTxRoom {s u : State} (room : Option Nat) : R s u → R (s.setTxRoom room) (u.setTxRoom room)
  setInputs {s u : State} (es : List Event) : R s u → R (s.setInputs es) (u.setInputs es)
  record {s u : State} (e : Abnormal) : R s u → R (record e s) (record e u)
  observeAll {s u : State} (os : List Obs) :
    R s u → R { s with trace := s.trace ++ os } { u with trace := u.trace ++ os }

/-- The same outcome, with related next states. -/
inductive SameOutcome (R : State → State → Prop) :
    Host.Outcome State Fault Refusal → Host.Outcome State Fault Refusal → Prop where
  | next {s u : State} (h : R s u) : SameOutcome R (.next s) (.next u)
  | fault (r : Fault) : SameOutcome R (.fault r) (.fault r)
  | refused (r : Refusal) : SameOutcome R (.refused r) (.refused r)

theorem SameOutcome.mapNext_eq {R : State → State → Prop} {o o' : Host.Outcome State Fault Refusal}
    (h : SameOutcome R o o') {f : State → State} (hf : ∀ s u, R s u → f s = f u) : mapNext f o = mapNext f o' := by
  cases h with
  | next h => exact congrArg Host.Outcome.next (hf _ _ h)
  | fault | refused => rfl

theorem SameOutcome.of_next {R : State → State → Prop} {s : State} {o : Host.Outcome State Fault Refusal}
    (h : SameOutcome R (.next s) o) : ∃ u, o = .next u ∧ R s u := by
  cases h with
  | next h => exact ⟨_, rfl, h⟩

/-- With no failure drawn, the whole frame goes out. -/
theorem sendOrHalt_of_unlimited {s : State} (hroom : s.txRoom = none) (p : Packet) (onOk : State → State) :
    sendOrHalt p onOk s = onOk (sentReply (frame s.cfg p) none s) := by
  rw [sendOrHalt, send_eq, emitAll_none hroom, sentReply, ← hroom]

/-- With enough room, the whole frame goes out and takes its length off the draw. -/
theorem sendOrHalt_of_enough {s : State} {k : Nat} (hroom : s.txRoom = some k) {p : Packet}
    (hk : (frame s.cfg p).length ≤ k) (onOk : State → State) :
    sendOrHalt p onOk s = onOk (sentReply (frame s.cfg p) (some (k - (frame s.cfg p).length)) s) := by
  rw [sendOrHalt, send_eq, emitAll_enough hroom _ hk]
  rfl

theorem step_of_not_ok {s : State} (hc : ¬ s.cfg.Ok) : step s = .refused .illFormedConfig := if_neg hc

namespace Unread

variable {R : State → State → Prop} (hR : Unread R) {s u : State} (h : R s u)
include hR h

theorem raise (e : Abnormal) : R (raise e s) (raise e u) := hR.record e (hR.observeAll [.raised e] h)

theorem abandonFrame (e : Abnormal) (m : RxState) : R (abandonFrame e m s) (abandonFrame e m u) :=
  hR.setRxState m (hR.setRx Buffer.empty (hR.raise h e))

theorem store (v : Byte) : R (store v s) (store v u) := by
  unfold Machine.store
  rw [← hR.rx h, ← hR.cfg h]
  split_ifs
  · exact hR.setRxState .normal (hR.setRx _ h)
  · exact hR.abandonFrame h .framingOvf .discard

theorem sentReply (sent : List Byte) (room : Option Nat) : R (sentReply sent room s) (sentReply sent room u) :=
  hR.setTxRoom room (hR.observeAll (sent.map .tx) h)

theorem cutReply (sent : List Byte) : R (cutReply sent s) (cutReply sent u) :=
  hR.raise (hR.sentReply h sent (some 0)) (.halt .xport)

theorem sendOrHalt (p : Packet) {onOk : State → State} (hok : ∀ {s u}, R s u → R (onOk s) (onOk u)) :
    R (sendOrHalt p onOk s) (sendOrHalt p onOk u) := by
  have hcfg := hR.cfg h
  cases hroom : s.txRoom with
  | none =>
    rw [sendOrHalt_of_unlimited hroom, sendOrHalt_of_unlimited (hR.txRoom h ▸ hroom), hcfg]
    exact hok (hR.sentReply h _ _)
  | some k =>
    have hroom' : u.txRoom = some k := hR.txRoom h ▸ hroom
    by_cases hk : (frame s.cfg p).length ≤ k
    · rw [sendOrHalt_of_enough hroom hk, sendOrHalt_of_enough hroom' (hcfg ▸ hk), hcfg]
      exact hok (hR.sentReply h _ _)
    · rw [sendOrHalt_of_cut onOk hroom (not_le.mp hk), sendOrHalt_of_cut onOk hroom' (hcfg ▸ not_le.mp hk), hcfg]
      exact hR.cutReply h _

theorem exec_request {i : Instr} (hl : i.inLayer .request = true) : SameOutcome R (exec i s) (exec i u) := by
  have hcfg := hR.cfg h
  cases i with
  | termspecQuery x =>
    rw [exec_termspecQuery, exec_termspecQuery, hcfg]
    exact .next (hR.sendOrHalt h _ id)
  | keyPoll x =>
    cases hkeys : s.kb.bytes with
    | none =>
      have hkeys' : u.kb.bytes = none := hR.kb h ▸ hkeys
      simp only [exec, execKeyPoll, kbKeys, hkeys, hkeys']
      exact .fault _
    | some keys =>
      rw [exec_keyPoll hkeys, exec_keyPoll (hR.kb h ▸ hkeys), hcfg]
      exact .next (hR.sendOrHalt h _ (hR.setKb Buffer.empty))
  | displayWrite x =>
    rw [exec_displayWrite, exec_displayWrite, ← congrArg Config.T_DISPLAY_WRITE hcfg]
    exact .next (hR.sendOrHalt (hR.observeAll _ h) _ (onOk := id) id)
  | interrupt => exact .next (hR.raise h _)
  | drop => exact .next (hR.raise h _)
  | _ => simp [Instr.inLayer] at hl

theorem deliver (p : Packet) : SameOutcome R (deliver p s) (deliver p u) := by
  by_cases hp : p = []
  · rw [hp]
    exact .next h
  · obtain ⟨i, hdec, -, hl, hd⟩ := deliver_eq_exec_request s hp
    rw [hd, deliver_eq_exec (hR.cfg h ▸ hdec)]
    exact hR.exec_request h hl

theorem exec_symbol {i : Instr} {m : RxState} {len : Nat} (hl : i.inLayer (.symbol m len) = true) :
    SameOutcome R (exec i s) (exec i u) := by
  have hcfg := hR.cfg h
  cases i with
  | termspecQuery | keyPoll | displayWrite | interrupt | drop | termspecReply | keysReply | ackReply =>
    simp [Instr.inLayer] at hl
  | endEmptyFrame | discarded => exact .next h
  | esc | endResync => exact .next (hR.setRxState _ h)
  | endAfterEsc | badEscape => exact .next (hR.abandonFrame h _ _)
  | literal b => exact .next (hR.store h b)
  | escEnd => exact .next (congrArg Config.END hcfg ▸ hR.store h s.cfg.END)
  | escEsc => exact .next (congrArg Config.ESC hcfg ▸ hR.store h s.cfg.ESC)
  | endOfFrame =>
    cases hp : s.rx.bytes with
    | none =>
      have hp' : u.rx.bytes = none := hR.rx h ▸ hp
      simp only [exec, execEndOfFrame, rxPacket, hp, hp']
      exact .fault _
    | some p =>
      rw [exec_endOfFrame hp, exec_endOfFrame (hR.rx h ▸ hp)]
      exact hR.deliver (hR.setRx Buffer.empty h) p

theorem rxByte (b : Byte) (draw : Option Nat) : SameOutcome R (rxByte b draw s) (rxByte b draw u) := by
  unfold Machine.rxByte fetchSymbol
  rw [← hR.run h, ← hR.cfg h, ← hR.rxState h, ← hR.rx h]
  cases s.run with
  | halted => exact .next h
  | running => exact hR.exec_symbol (hR.setTxRoom draw h) (decodeSymbol_row s.cfg s.rxState s.rx.len b).1

theorem key (k : Byte) : R (key k s) (key k u) := by
  unfold Machine.key
  rw [← hR.run h, ← hR.cfg h, ← hR.kb h]
  cases s.run with
  | halted => exact h
  | running =>
    dsimp only
    split_ifs
    · exact hR.setKb _ h
    · exact hR.raise h _

theorem xportFail : R (xportFail s) (xportFail u) := by
  unfold Machine.xportFail
  rw [← hR.run h]
  cases s.run with
  | halted => exact h
  | running => exact hR.raise h _

/-- A step does not read what `R` leaves open; `Reset` is left to the caller, since it starts the record again. -/
theorem step (hreset : ∀ rest, s.inputs = .reset :: rest →
      R (resetBlock (s.setInputs rest)) (resetBlock (u.setInputs rest))) :
    SameOutcome R (step s) (step u) := by
  by_cases hc : s.cfg.Ok
  swap
  · rw [step_of_not_ok hc, step_of_not_ok (hR.cfg h ▸ hc)]
    exact .refused _
  cases hin : s.inputs with
  | nil =>
    rw [step_of_idle hc hin, step_of_idle (hR.cfg h ▸ hc) (hR.inputs h ▸ hin)]
    exact .next h
  | cons e rest =>
    rw [step_eq_takeEvent hc hin, step_eq_takeEvent (hR.cfg h ▸ hc) (hR.inputs h ▸ hin)]
    have hrest := hR.setInputs rest h
    cases e with
    | reset => exact .next (hreset rest hin)
    | rxByte b draw => exact hR.rxByte hrest b draw
    | key k => exact .next (hR.key hrest k)
    | xportFail => exact .next (hR.xportFail hrest)

end Unread

/-! ## The flags and the record -/

/-- No rule reads the flags (R21). -/
theorem unread_flags : Unread fun s u => s.forgetFlags = u.forgetFlags where
  cfg h := (congrArg State.cfg h :)
  rx h := (congrArg State.rx h :)
  rxState h := (congrArg State.rxState h :)
  kb h := (congrArg State.kb h :)
  run h := (congrArg State.run h :)
  txRoom h := (congrArg State.txRoom h :)
  inputs h := (congrArg State.inputs h :)
  setRx b h := (congrArg (State.setRx b) h :)
  setRxState m h := (congrArg (State.setRxState m) h :)
  setKb b h := (congrArg (State.setKb b) h :)
  setTxRoom room h := (congrArg (State.setTxRoom room) h :)
  setInputs es h := (congrArg (State.setInputs es) h :)
  record e h := by
    cases e with
    | framingEsc | framingOvf | protocolDrop | kbOverflow => exact h
    | halt c => exact (congrArg (State.setHalted c) h :)
  observeAll os h := (congrArg (fun s : State => { s with trace := s.trace ++ os }) h :)

/-- The state with an older record in front of its own. -/
def State.after (before : List Obs) (s : State) : State := { s with trace := before ++ s.trace }

/-- No rule reads the record of what was done (R20). -/
theorem unread_trace (before : List Obs) : Unread fun s u => u = s.after before where
  cfg := by rintro _ _ rfl; rfl
  rx := by rintro _ _ rfl; rfl
  rxState := by rintro _ _ rfl; rfl
  kb := by rintro _ _ rfl; rfl
  run := by rintro _ _ rfl; rfl
  txRoom := by rintro _ _ rfl; rfl
  inputs := by rintro _ _ rfl; rfl
  setRx := by rintro _ _ _ rfl; rfl
  setRxState := by rintro _ _ _ rfl; rfl
  setKb := by rintro _ _ _ rfl; rfl
  setTxRoom := by rintro _ _ _ rfl; rfl
  setInputs := by rintro _ _ _ rfl; rfl
  record e h := by
    subst h
    cases e <;> rfl
  observeAll os h := by simp [h, State.after]

end Sys2Proof.Machine
end

section
/-! The statements on what no rule reads, and on the first facts of a run. -/

namespace Sys2Proof

open Machine

/-- Settles O45: states that agree but for the flags are so related, and `Reset` sets all four. -/
theorem flagsAreNeverRead : Obligations.FlagsAreNeverRead := by
  intro s u h
  have hreset : ∀ rest, s.inputs = .reset :: rest →
      (resetBlock (s.setInputs rest)).forgetFlags = (resetBlock (u.setInputs rest)).forgetFlags := by
    intro rest _
    have hcfg : s.cfg = u.cfg := unread_flags.cfg h
    simp only [resetBlock, State.setInputs_cfg, State.setInputs_inputs, hcfg]
  exact (unread_flags.step h hreset).mapNext_eq fun _ _ => id

/-- Settles O46: a record in front of the block's own is carried along by every step but `Reset`. -/
theorem outputsAreNeverRead : Obligations.OutputsAreNeverRead := by
  intro s t before hreset hstep
  have h : { s with trace := before } = s.forgetTrace.after before := by simp [State.after, State.forgetTrace]
  have hsame := (unread_trace before).step h fun rest hin => absurd hin (hreset rest)
  rw [hstep] at hsame
  obtain ⟨u, hu, rfl⟩ := hsame.of_next
  exact hu

/-- Settles O5. -/
theorem illFormedConfigRefused : Obligations.IllFormedConfigRefused := fun _ => step_of_not_ok

/-- Settles O22: the event leaves the schedule, and that is all. -/
theorem haltedIgnoresAllButReset : Obligations.HaltedIgnoresAllButReset :=
  fun _ _ _ hc hrun hin he => step_of_halted hc hrun hin he

/-- Settles O4: a halted block lets the byte pass, a running one decodes it. -/
theorem stepRunsDecodedByte : Obligations.StepRunsDecodedByte := by
  intro s b draw rest hc hin
  exact ⟨fun hrun => step_of_halted hc hrun hin nofun, fun hrun => ⟨_, rfl, step_of_rxByte hc hrun hin⟩⟩

/-- Settles O3: nothing is held, and the block runs. -/
theorem invariantHoldsAtReset : Obligations.InvariantHoldsAtReset :=
  ⟨State.Inv.resetWith (by decide), fun _ => State.Inv.resetWith⟩

/-- Settles O1, by evaluating the decoder on each word. -/
theorem specWordsDecode : Obligations.SpecWordsDecode := by
  refine ⟨?_, ?_, ?_, ?_, ?_, ?_, ?_, ?_, ?_, ?_, ?_⟩ <;> rfl

end Sys2Proof
end
